-- ==== Sys2Proof/Word.lean ====
section
/-! DEFINITION. The byte type and the fixed-length byte array of the register file.

A byte is 8 bits, numbered from 0 at the least significant end (spec/00_scope.md R13).  A byte
string is a `List Byte`, indexed from 0; a register that the spec calls a byte array of n bytes
(IV, SK1, SK2, KEY, MAC, PKEY: spec/20_memory.md R85) is a `ByteArr n`. -/

namespace Sys2Proof

/-- A byte (spec/00_scope.md R13). -/
abbrev Byte := BitVec 8

/-- A byte string of exactly `n` bytes; byte `i` of the register is element `i` of the list
(spec/20_memory.md R85). -/
abbrev ByteArr (n : Nat) := { l : List Byte // l.length = n }

/-- `zeros(n)` of spec/00_scope.md R13, as a register value. -/
def ByteArr.zero (n : Nat) : ByteArr n := ⟨List.replicate n 0, List.length_replicate⟩

end Sys2Proof
end

