-- ==== Sys2Proof/Machine/Bytes.lean ====
section
/-! DEFINITION. The notation of spec/00_scope.md R13 and R14 for byte strings, as functions. -/

namespace Sys2Proof.Machine

/-- `zeros(n)` (R13). -/
def zeros (n : Nat) : List Byte := List.replicate n 0

/-- `s[i..j)` (R13). -/
def slice (s : List Byte) (i j : Nat) : List Byte := (s.drop i).take (j - i)

/-- `xor(s, t)` of two strings of equal length (R13). -/
def xorBytes (s t : List Byte) : List Byte := List.zipWith (· ^^^ ·) s t

/-- `le16(v)` (R13). -/
def le16 (v : BitVec 16) : List Byte := [v.extractLsb' 0 8, v.extractLsb' 8 8]

/-- `le32(v)` (R13). -/
def le32 (v : BitVec 32) : List Byte :=
  [v.extractLsb' 0 8, v.extractLsb' 8 8, v.extractLsb' 16 8, v.extractLsb' 24 8]

/-- The first `n` bytes of `s`, filled up with zeros: the width convention of spec/10_state.md R43, and
`PKEY <- Kin ++ zeros` of spec/45_dispatch.md R331. -/
def fitBytes (n : Nat) (s : List Byte) : ByteArr n :=
  ⟨(s ++ List.replicate n 0).take n, by simp⟩

/-- A register with its byte `i` replaced (spec/20_memory.md R83, R85). -/
def setByte {n : Nat} (r : ByteArr n) (i : Nat) (v : Byte) : ByteArr n :=
  ⟨r.val.set i v, by simp [r.property]⟩

/-- The bytes of `s` as one number, byte 0 most significant (R14). -/
def beNat (s : List Byte) : Nat := s.foldl (fun a d => a * 256 + d.toNat) 0

/-- A block read as a bit string of `n` bits, byte 0 most significant and bit 7 of each byte first (R14). -/
def bitsOfBlock (n : Nat) (s : List Byte) : BitVec n := BitVec.ofNat n (beNat s)

/-- The block of `b` bytes that is read as the bit string `x` (R14). -/
def blockOfBits (b : Nat) (x : BitVec (8 * b)) : List Byte :=
  (List.range b).map (fun i => x.extractLsb' (8 * (b - 1 - i)) 8)

end Sys2Proof.Machine
end

