-- ==== Sys2Proof/Config.lean ====
section
/-! DEFINITION. What an implementation of SPKY-CORE fixes: the parameters of spec/00_scope.md
R10-R12, and the block functions of `BLOCK_FNS = ABSTRACT`, which the spec leaves opaque.

The parameters are plain data held in `State` (log entry 8), so that a claim about every state is a
claim about every legal choice of parameters. -/

namespace Sys2Proof

/-- `RX_STATUS_SEED` (spec/00_scope.md R11): how the caller's status byte enters the receive CRC-32
(spec/44_default_wrapper.md R312). -/
inductive RxStatusSeed where
  /-- PREFIX: the status byte is fed before the data. -/
  | seedPrefix
  /-- SUFFIX: the status byte is fed after the data. -/
  | seedSuffix
  /-- IGNORE: the status byte takes no part. -/
  | seedIgnore
  deriving DecidableEq, Repr

/-- `BLOCK_FNS` (spec/00_scope.md R12). -/
inductive BlockFns where
  /-- STANDARD: the algorithms of spec/41_block_ciphers.md. -/
  | standard
  /-- ABSTRACT: opaque functions of key and block that satisfy spec/40_primitive.md R151. -/
  | abstract
  deriving DecidableEq, Repr

/-- The parameters of spec/00_scope.md R10-R12.  The two proofs are R10's bounds on `BUF_CAP`, so an
illegal capacity cannot be written down. -/
structure Params where
  /-- `BASE`, the host-bus address of the register window (R10: OPEN, the platform's). -/
  base : Nat
  /-- `BUF_CAP`, the capacity of BUF in bytes (R10). -/
  bufCap : Nat
  /-- `CRC16_XOROUT` (R11). -/
  crc16XorOut : BitVec 16
  /-- `CRC32_XOROUT` (R11). -/
  crc32XorOut : BitVec 32
  /-- `RX_STATUS_SEED` (R11). -/
  rxStatusSeed : RxStatusSeed
  /-- `BLOCK_FNS` (R12). -/
  blockFns : BlockFns
  /-- R10: `16 <= BUF_CAP`. -/
  cap_ge : 16 ≤ bufCap
  /-- R10: `BUF_CAP <= 4096`. -/
  cap_le : bufCap ≤ 4096
  deriving DecidableEq, Repr

/-- The spec's defaults (spec/00_scope.md R10-R12).  `BASE` has none: 0 is a DESIGN CHOICE (log entry
7). -/
def Params.standard : Params where
  base := 0
  bufCap := 256
  crc16XorOut := 0xFFFF
  crc32XorOut := 0xFFFFFFFF
  rxStatusSeed := .seedPrefix
  blockFns := .standard
  cap_ge := by decide
  cap_le := by decide

/-- The block cipher of a bound family (spec/40_primitive.md R150).  Type `none` has none. -/
inductive Primitive where
  | des
  | des3_2k
  | des3_3k
  | aes128
  deriving DecidableEq, Repr

namespace Config

/-- `BLOCK_FNS = ABSTRACT`, families with 8-byte blocks: for each primitive and key, some permutation
of 64-bit blocks, of which nothing else is known.  Its two directions are E_c and D_c, so
spec/40_primitive.md R151 holds by the type (log entry 9). -/
opaque abstractCipher64 : Primitive → List Byte → Equiv.Perm (BitVec 64)

/-- `BLOCK_FNS = ABSTRACT`, AES-128: for each key, some permutation of 128-bit blocks (log entry 9). -/
opaque abstractCipher128 : List Byte → Equiv.Perm (BitVec 128)

end Config

end Sys2Proof
end

