-- ==== Sys2Proof/Syntax.lean ====
section
/-! DEFINITION. The commands of spec/30_encoding.md R120: one constructor for each of the 22 rows of
spec/opcode_table.json, with the operand of R113 where the row has one. -/

namespace Sys2Proof

/-- CipherType, encoded 0 to 4 in this order (spec/30_encoding.md R116). -/
inductive CipherType where
  | none
  | des
  | des3_2k
  | des3_3k
  | aes128
  deriving DecidableEq, Repr

/-- A command (spec/30_encoding.md R120). -/
inductive Instr where
  /-- SETUP_KEY t (spec/45_dispatch.md R331). -/
  | setupKey (t : CipherType)
  /-- INIT_SESSION (spec/45_dispatch.md R335). -/
  | initSession
  /-- REINIT_SESSION (spec/45_dispatch.md R336). -/
  | reinitSession
  /-- DO_CRYPTO.ENC (spec/40_primitive.md R161). -/
  | doCryptoEnc
  /-- DO_CRYPTO.DEC (spec/40_primitive.md R162). -/
  | doCryptoDec
  /-- DO_CRYPTO.MAC (spec/40_primitive.md R163). -/
  | doCryptoMac
  /-- CMAC_SUBKEYS (spec/42_cmac.md R243). -/
  | cmacSubkeys
  /-- COMPUTE_CMAC (spec/42_cmac.md R246). -/
  | computeCmac
  /-- PREPARE_TX.PLAIN (spec/45_dispatch.md R341). -/
  | prepareTxPlain
  /-- PREPARE_TX.MAC (spec/45_dispatch.md R342). -/
  | prepareTxMac
  /-- PREPARE_TX.CIPHER (spec/45_dispatch.md R343). -/
  | prepareTxCipher
  /-- CONFIRM_RX.PLAIN (spec/45_dispatch.md R346). -/
  | confirmRxPlain
  /-- CONFIRM_RX.MAC (spec/45_dispatch.md R347). -/
  | confirmRxMac
  /-- CONFIRM_RX.CIPHER (spec/45_dispatch.md R348). -/
  | confirmRxCipher
  /-- CONFIRM_RX.CIPHER.S s (spec/45_dispatch.md R349). -/
  | confirmRxCipherS (status : Byte)
  /-- CRC16 (spec/46_integrity_helpers.md R384). -/
  | crc16
  /-- CRC32 (spec/46_integrity_helpers.md R385). -/
  | crc32
  /-- CRC32.S s (spec/46_integrity_helpers.md R386). -/
  | crc32S (status : Byte)
  /-- PADLEN.ZERO b (spec/46_integrity_helpers.md R389). -/
  | padlenZero (b : Byte)
  /-- PADLEN.CMAC b (spec/46_integrity_helpers.md R390). -/
  | padlenCmac (b : Byte)
  /-- ROTATE k (spec/46_integrity_helpers.md R391). -/
  | rotate (k : Byte)
  /-- RELEASE (spec/45_dispatch.md R361). -/
  | release
  deriving DecidableEq, Repr

end Sys2Proof
end

