-- ==== Sys2Proof/WellFormed.lean ====
section
/-! DEFINITION. Which terms of `Instr` are commands.  The type already rules out every operand but one:
PADLEN with block size 0 (spec/30_encoding.md R119, R123). -/

namespace Sys2Proof

/-- The operand constraints of spec/30_encoding.md R120 that the type does not carry: `IMM8 >= 1` for
both PADLEN rows. -/
def Instr.wellFormed : Instr → Bool
  | .padlenZero b => b != 0
  | .padlenCmac b => b != 0
  | .setupKey _ | .initSession | .reinitSession
  | .doCryptoEnc | .doCryptoDec | .doCryptoMac
  | .cmacSubkeys | .computeCmac
  | .prepareTxPlain | .prepareTxMac | .prepareTxCipher
  | .confirmRxPlain | .confirmRxMac | .confirmRxCipher | .confirmRxCipherS _
  | .crc16 | .crc32 | .crc32S _
  | .rotate _ | .release => true

end Sys2Proof
end

