-- ==== Sys2Proof/Decode.lean ====
section
/-! DEFINITION. The command decoder of spec/30_encoding.md R126, driven by the table of R120 as data,
and after it the encoder of R127. -/

namespace Sys2Proof

/-! ### Fields (R112, R113) -/

/-- OPC, bits 7..0. -/
def fieldOpc (w : BitVec 32) : Byte := w.extractLsb' 0 8

/-- IMM8, bits 23..16. -/
def fieldImm8 (w : BitVec 32) : Byte := w.extractLsb' 16 8

/-- CipherType from IMM8; values 5 to 255 are illegal (R116). -/
def cipherTypeOfImm8 (v : Byte) : Option CipherType :=
  match v.toNat with
  | 0 => some .none
  | 1 => some .des
  | 2 => some .des3_2k
  | 3 => some .des3_3k
  | 4 => some .aes128
  | _ => Option.none

/-- The IMM8 code of a CipherType (R116). -/
def CipherType.code : CipherType → Byte
  | .none => 0
  | .des => 1
  | .des3_2k => 2
  | .des3_3k => 3
  | .aes128 => 4

/-! ### The decode table (R120) -/

/-- One row of R120.  `make` is the row's value constraint and its command together: it answers no
command where the operand breaks the constraint. -/
structure DecodeRow where
  /-- The mnemonic, as spec/opcode_table.json spells it. -/
  mnemonic : String
  /-- The row's "match" column. -/
  bits : BitVec 32
  /-- The row's "mask" column. -/
  mask : BitVec 32
  /-- The command of the row with IMM8 as operand, if IMM8 meets the row's constraint. -/
  make : Byte → Option Instr

/-- `(w & mask) == match` (R120). -/
def DecodeRow.selects (r : DecodeRow) (w : BitVec 32) : Bool := w &&& r.mask == r.bits

/-- The rows of R120 that bind and run a session, and the raw primitive. -/
def decodeTableCore : List DecodeRow :=
  [ ⟨"SETUP_KEY",         0x00000001, 0xFF00FFFF, fun v => (cipherTypeOfImm8 v).map .setupKey⟩
  , ⟨"INIT_SESSION",      0x00000002, 0xFFFFFFFF, fun _ => some .initSession⟩
  , ⟨"REINIT_SESSION",    0x00000003, 0xFFFFFFFF, fun _ => some .reinitSession⟩
  , ⟨"DO_CRYPTO.ENC",     0x00000004, 0xFFFFFFFF, fun _ => some .doCryptoEnc⟩
  , ⟨"DO_CRYPTO.DEC",     0x00000104, 0xFFFFFFFF, fun _ => some .doCryptoDec⟩
  , ⟨"DO_CRYPTO.MAC",     0x00000204, 0xFFFFFFFF, fun _ => some .doCryptoMac⟩
  , ⟨"CMAC_SUBKEYS",      0x00000005, 0xFFFFFFFF, fun _ => some .cmacSubkeys⟩
  , ⟨"COMPUTE_CMAC",      0x00000006, 0xFFFFFFFF, fun _ => some .computeCmac⟩ ]

/-- The rows of R120 of the mode dispatcher. -/
def decodeTableTransfer : List DecodeRow :=
  [ ⟨"PREPARE_TX.PLAIN",    0x00000007, 0xFFFFFFFF, fun _ => some .prepareTxPlain⟩
  , ⟨"PREPARE_TX.MAC",      0x00000107, 0xFFFFFFFF, fun _ => some .prepareTxMac⟩
  , ⟨"PREPARE_TX.CIPHER",   0x00000207, 0xFFFFFFFF, fun _ => some .prepareTxCipher⟩
  , ⟨"CONFIRM_RX.PLAIN",    0x00000008, 0xFFFFFFFF, fun _ => some .confirmRxPlain⟩
  , ⟨"CONFIRM_RX.MAC",      0x00000108, 0xFFFFFFFF, fun _ => some .confirmRxMac⟩
  , ⟨"CONFIRM_RX.CIPHER",   0x00000208, 0xFFFFFFFF, fun _ => some .confirmRxCipher⟩
  , ⟨"CONFIRM_RX.CIPHER.S", 0x00000608, 0xFF00FFFF, fun v => some (.confirmRxCipherS v)⟩ ]

/-- The rows of R120 of the integrity helpers, and RELEASE. -/
def decodeTableHelpers : List DecodeRow :=
  [ ⟨"CRC16",       0x00000009, 0xFFFFFFFF, fun _ => some .crc16⟩
  , ⟨"CRC32",       0x0000000A, 0xFFFFFFFF, fun _ => some .crc32⟩
  , ⟨"CRC32.S",     0x0000040A, 0xFF00FFFF, fun v => some (.crc32S v)⟩
  , ⟨"PADLEN.ZERO", 0x0000000B, 0xFF00FFFF, fun v => if v = 0 then none else some (.padlenZero v)⟩
  , ⟨"PADLEN.CMAC", 0x0000010B, 0xFF00FFFF, fun v => if v = 0 then none else some (.padlenCmac v)⟩
  , ⟨"ROTATE",      0x0000000C, 0xFF00FFFF, fun v => some (.rotate v)⟩
  , ⟨"RELEASE",     0x0000000D, 0xFFFFFFFF, fun _ => some .release⟩ ]

/-- The complete decode table of R120, in its order. -/
def decodeTable : List DecodeRow := decodeTableCore ++ decodeTableTransfer ++ decodeTableHelpers

/-! ### Decoding (R123, R126) -/

/-- Why a word is illegal (R123; the names are the model's, log entry 15).  Every one of them executes as
`raise Err(ILLEGAL)`. -/
inductive DecodeReject where
  /-- Fewer than the four bytes of a command word (R110); never met in the CMD store. -/
  | truncated
  /-- OPC is 0x00 or in 0x0E-0xFF. -/
  | reservedOpcode
  /-- A reserved bit, an unused field or an out-of-range MODE: the word matches no row. -/
  | noRow
  /-- The word matches a row and breaks its value constraint. -/
  | badOperand
  deriving DecidableEq, Repr

/-- `decode(w)` of R126: total, and every word that is not a command is rejected by name. -/
def decodeWord (w : BitVec 32) : Except DecodeReject Instr :=
  match decodeTable.find? (fun r => r.selects w) with
  | some r =>
    match r.make (fieldImm8 w) with
    | some i => .ok i
    | none => .error .badOperand
  | none =>
    if fieldOpc w = 0x00 ∨ (0x0E : Byte) ≤ fieldOpc w then .error .reservedOpcode else .error .noRow

/-- The command word of four stored bytes, byte 0 least significant (spec/20_memory.md R85). -/
def wordOfBytes (b0 b1 b2 b3 : Byte) : BitVec 32 := b3 ++ b2 ++ b1 ++ b0

/-- Byte `i` of a word, byte 0 least significant (spec/20_memory.md R85). -/
def byteOfWord (w : BitVec 32) (i : Nat) : Byte := w.extractLsb' (8 * i) 8

/-- The word `w` with its byte `i` replaced (spec/20_memory.md R85). -/
def setByteOfWord (w : BitVec 32) (i : Nat) (v : Byte) : BitVec 32 :=
  if i = 0 then wordOfBytes v (byteOfWord w 1) (byteOfWord w 2) (byteOfWord w 3)
  else if i = 1 then wordOfBytes (byteOfWord w 0) v (byteOfWord w 2) (byteOfWord w 3)
  else if i = 2 then wordOfBytes (byteOfWord w 0) (byteOfWord w 1) v (byteOfWord w 3)
  else wordOfBytes (byteOfWord w 0) (byteOfWord w 1) (byteOfWord w 2) v

/-- Decoding of bytes as the CMD store holds them: a command word is always four bytes (R110, R125).
Answers the command and the bytes after it. -/
def decode : List Byte → Except DecodeReject (Instr × List Byte)
  | b0 :: b1 :: b2 :: b3 :: rest =>
    match decodeWord (wordOfBytes b0 b1 b2 b3) with
    | .ok i => .ok (i, rest)
    | .error e => .error e
  | _ => .error .truncated

/-! ### Encoding (R127) -/

/-- A row's match with the operand in IMM8: `match OR (operand << 16)` (R127). -/
def withImm8 (bits : BitVec 32) (v : Byte) : BitVec 32 := bits ||| (v.setWidth 32 <<< 16)

/-- The command word of a command (R127, with the "match" column of R120). -/
def encodeWord : Instr → BitVec 32
  | .setupKey t => withImm8 0x00000001 t.code
  | .initSession => 0x00000002
  | .reinitSession => 0x00000003
  | .doCryptoEnc => 0x00000004
  | .doCryptoDec => 0x00000104
  | .doCryptoMac => 0x00000204
  | .cmacSubkeys => 0x00000005
  | .computeCmac => 0x00000006
  | .prepareTxPlain => 0x00000007
  | .prepareTxMac => 0x00000107
  | .prepareTxCipher => 0x00000207
  | .confirmRxPlain => 0x00000008
  | .confirmRxMac => 0x00000108
  | .confirmRxCipher => 0x00000208
  | .confirmRxCipherS s => withImm8 0x00000608 s
  | .crc16 => 0x00000009
  | .crc32 => 0x0000000A
  | .crc32S s => withImm8 0x0000040A s
  | .padlenZero b => withImm8 0x0000000B b
  | .padlenCmac b => withImm8 0x0000010B b
  | .rotate k => withImm8 0x0000000C k
  | .release => 0x0000000D

/-- The bytes of a word as `ISSUE` writes them, offset 0x0000 first (R128). -/
def bytesOfWord (w : BitVec 32) : List Byte :=
  [byteOfWord w 0, byteOfWord w 1, byteOfWord w 2, byteOfWord w 3]

/-- The bytes of a command, offset 0x0000 first (R127, R128). -/
def encode (i : Instr) : List Byte := bytesOfWord (encodeWord i)

/-- The command of the table's numbering: `w` has its bits above `nbits` clear, its first byte is bits
7..0, and its bytes go to the decoder in the order the CMD store holds them. -/
def decodeTableWord (nbits w : Nat) : Option Instr :=
  match decode (bytesOfWord (BitVec.ofNat 32 (w % 2 ^ nbits))) with
  | .ok (i, _) => some i
  | .error _ => none

end Sys2Proof
end

