-- ==== Sys2Proof/Machine/State.lean ====
section
/-! DEFINITION. The state of SPKY-CORE (spec/10_state.md R30-R56), the reasons a step can stop, and the
state after hardware reset (spec/70_reset_and_hazards.md R450).

Two registers of the window are views of other state and have no field of their own: STATUS is STATE,
SKV, DEGEN and OK put together (R36), and BSIZE "is always derived from CTYPE" (R39); see log entry
11. -/

namespace Sys2Proof.Machine

/-- Why the machine stops.  Both faults are the model's: the block itself has no trap
(spec/60_exceptions.md R410), and every error the spec names is a next state with a code in ERR. -/
inductive Fault where
  /-- A command or a host read reached the BUF byte at this window offset, which nothing has written
  since reset (spec/70_reset_and_hazards.md R452; spec/93_implementation_defined.md U1).  Raised by
  `Memory.readRange` and `Memory.read`.  Safe: the hardware goes on with an unspecified byte. -/
  | unwrittenBuf (offset : Nat)
  /-- A host access to a bus address outside the 64 KiB window at BASE (spec/20_memory.md R80), which
  is no access to this block.  Raised by `acceptRead` and `acceptWrite`.  Safe: the block takes no
  part in such an access. -/
  | outsideWindow (addr : Nat)
  deriving DecidableEq, Repr

/-- What the machine refuses. -/
inductive Refusal where
  /-- A command that has no meaning yet.  No arm of `exec` answers it. Safe. -/
  | notModelled (mnemonic : String)
  /-- A host access of a width other than one byte, which "is not part of the interface"
  (spec/20_memory.md R81; spec/93_implementation_defined.md U2).  Raised by `accept`.  Safe. -/
  | wideAccess (addr width : Nat)
  deriving DecidableEq, Repr

/-- The outcome code of the last command (spec/10_state.md R37; spec/60_exceptions.md R411). -/
inductive Err where
  | none
  | illegal
  | state
  | unsupported
  | length
  | keySetup
  | modeViolation
  | integrity
  deriving DecidableEq, Repr

/-- The session state machine (spec/10_state.md R51). -/
inductive Session where
  /-- No primitive is bound. -/
  | unkeyed
  /-- A primitive and wrapper are bound and keyed, but there is no session. -/
  | keyed
  /-- INIT_SESSION or REINIT_SESSION has run on the bound pair. -/
  | session
  deriving DecidableEq, Repr

/-- What reaches the block from outside, one at a time (spec/10_state.md R30; spec/20_memory.md R81,
R84; spec/70_reset_and_hazards.md R450).  Addresses are host-bus addresses. -/
inductive HostEvent where
  /-- `MemRead(addr, 1)`. -/
  | read (addr : Nat)
  /-- `MemWrite(addr, 1, v)`. -/
  | write (addr : Nat) (v : Byte)
  /-- An access of a width other than one byte. -/
  | wide (addr width : Nat)
  /-- The platform's reset input. -/
  | reset
  deriving DecidableEq, Repr

/-- The written bytes of BUF: (window offset, byte) pairs.  An unlisted byte holds no value (log entry
4). -/
abbrev Memory := List Host.Cell

/-- The canonical form: addresses strictly rising.  An unlisted address reads as no value, so no entry
can equal what an unlisted address reads as. -/
abbrev Memory.wf (m : Memory) : Prop := m.Pairwise (fun c d => c.1 < d.1)

/-- Everything the spec gives the machine (spec/10_state.md), and the host side of the interface. -/
structure State where
  /-- The parameters of this block (spec/00_scope.md R10-R12), which no step changes. -/
  params : Params
  /-- CMD, the command byte store (R35, R55). -/
  cmd : BitVec 32
  /-- STATUS.STATE (R36, R51). -/
  session : Session
  /-- SUBKEYS_VALID, STATUS.SKV (R53). -/
  skv : Bool
  /-- DEGENERATE, STATUS.DEGEN (R54). -/
  degen : Bool
  /-- STATUS.OK (R36, R412). -/
  ok : Bool
  /-- ERR (R37). -/
  err : Err
  /-- CTYPE, the bound family (R38). -/
  ctype : CipherType
  /-- LEN (R40). -/
  len : BitVec 16
  /-- OFS (R41). -/
  ofs : BitVec 16
  /-- RESULT (R42). -/
  result : BitVec 32
  /-- IV, the chaining register (R43). -/
  iv : ByteArr 16
  /-- SK1, CMAC subkey-no-pad (R46). -/
  sk1 : ByteArr 16
  /-- SK2, CMAC subkey-pad (R47). -/
  sk2 : ByteArr 16
  /-- KEY, the write-only key staging register (R44). -/
  key : ByteArr 24
  /-- KEYLEN (R45). -/
  keylen : BitVec 8
  /-- MAC, the CMAC-8 of the last COMPUTE_CMAC (R48). -/
  mac : ByteArr 8
  /-- PKEY, the key of the bound primitive, which the host cannot address (R52). -/
  pkey : ByteArr 24
  /-- BUF, at window offsets 0x0100 and up (R49). -/
  mem : Memory
  /-- The model's own: what reaches the block next, in order (log entry 1). -/
  pending : List HostEvent
  /-- The model's own: the bytes the host's reads have returned, in order (log entry 3). -/
  readLog : List Byte
  deriving DecidableEq, Repr

/-- The state after hardware reset of a block with the given parameters
(spec/70_reset_and_hazards.md R450): every register zero, every byte of BUF unspecified (R452). -/
def State.resetWith (p : Params) : State where
  params := p
  cmd := 0
  session := .unkeyed
  skv := false
  degen := false
  ok := false
  err := .none
  ctype := .none
  len := 0
  ofs := 0
  result := 0
  iv := ByteArr.zero 16
  sk1 := ByteArr.zero 16
  sk2 := ByteArr.zero 16
  key := ByteArr.zero 24
  keylen := 0
  mac := ByteArr.zero 8
  pkey := ByteArr.zero 24
  mem := []
  pending := []
  readLog := []

/-- The machine right after reset, its parameters at the spec's defaults (log entry 8). -/
def State.reset : State := State.resetWith Params.standard

end Sys2Proof.Machine
end

