-- ==== Sys2Proof/Machine/Flags.lean ====
section
/-! DEFINITION. The status views: the ERR byte (spec/10_state.md R37), the STATUS byte (R36) and BSIZE
(R39). -/

namespace Sys2Proof.Machine

/-- The code ERR holds (spec/60_exceptions.md R411). -/
def Err.code : Err → Byte
  | .none => 0x00
  | .illegal => 0x01
  | .state => 0x02
  | .unsupported => 0x03
  | .length => 0x04
  | .keySetup => 0x05
  | .modeViolation => 0x06
  | .integrity => 0x07

/-- The two bits of STATUS.STATE (R36). -/
def Session.code : Session → BitVec 2
  | .unkeyed => 0
  | .keyed => 1
  | .session => 2

/-- STATUS (R36): bits 7..6 and BUSY are hardwired 0, then OK, DEGEN, SKV and STATE. -/
def State.status (s : State) : Byte :=
  (0 : BitVec 3) ++ BitVec.ofBool s.ok ++ BitVec.ofBool s.degen ++ BitVec.ofBool s.skv ++
    s.session.code

/-- The key size of a type in bytes (spec/00_scope.md R9; spec/10_state.md R56). -/
def keyBytes : CipherType → Nat
  | .none => 0
  | .des => 8
  | .des3_2k => 16
  | .des3_3k => 24
  | .aes128 => 16

/-- The block size b of a primitive in bytes (spec/00_scope.md R8; spec/10_state.md R56). -/
def blockSize : Primitive → Nat
  | .des => 8
  | .des3_2k => 8
  | .des3_3k => 8
  | .aes128 => 16

/-- The primitive of a type; `none` has none (spec/45_dispatch.md R330). -/
def primitiveOf : CipherType → Option Primitive
  | .none => Option.none
  | .des => some .des
  | .des3_2k => some .des3_2k
  | .des3_3k => some .des3_3k
  | .aes128 => some .aes128

/-- The wrapper the factory pairs with a type (spec/45_dispatch.md R330), holding its primitive. -/
inductive Wrapper where
  /-- The identity wrapper of type none (spec/45_dispatch.md R333). -/
  | identity
  /-- The legacy wrapper (spec/43_legacy_wrapper.md). -/
  | legacy (p : Primitive)
  /-- The default wrapper, which has the CMAC engine (spec/44_default_wrapper.md). -/
  | default (p : Primitive)
  deriving DecidableEq, Repr

/-- The factory: "Pure function `CipherType -> (Primitive, Wrapper)`" (spec/45_dispatch.md R330). -/
def factory : CipherType → Wrapper
  | .none => .identity
  | .des => .legacy .des
  | .des3_2k => .legacy .des3_2k
  | .des3_3k => .default .des3_3k
  | .aes128 => .default .aes128

/-- BSIZE: 0 for type none, else the block size of the bound primitive (R39). -/
def State.bsize (s : State) : Byte :=
  match primitiveOf s.ctype with
  | none => 0
  | some p => BitVec.ofNat 8 (blockSize p)

end Sys2Proof.Machine
end

