-- ==== Sys2Proof/Machine/Ops.lean ====
section
/-! DEFINITION. The named operations over memory and registers: BUF, the two outcomes of a command, the
register writes that commands share, and the bytes of the register window. -/

namespace Sys2Proof.Machine

/-- What a command answers. -/
abbrev Result := Host.Outcome State Fault Refusal

/-! ### BUF (spec/10_state.md R49) -/

/-- The window offset of BUF[0] (spec/10_state.md R34). -/
def bufBase : Nat := 0x0100

/-- The byte at a window offset of BUF; none where nothing has been written since reset
(spec/70_reset_and_hazards.md R452). -/
def Memory.read : Memory → Nat → Option Byte
  | [], _ => none
  | c :: m, a => if c.1 = a then some c.2 else Memory.read m a

/-- Storing a byte, in canonical form. -/
def Memory.write : Memory → Nat → Byte → Memory
  | [], a, v => [(a, v)]
  | c :: m, a, v =>
    if a < c.1 then (a, v) :: c :: m
    else if a = c.1 then (a, v) :: m
    else c :: Memory.write m a v

/-- The `n` bytes from offset `a` up, or the first offset that holds no value. -/
def Memory.readRange (m : Memory) : Nat → Nat → Except Nat (List Byte)
  | _, 0 => .ok []
  | a, n + 1 =>
    match m.read a with
    | none => .error a
    | some v =>
      match m.readRange (a + 1) n with
      | .ok vs => .ok (v :: vs)
      | .error e => .error e

/-- Storing a string from offset `a` up. -/
def Memory.writeRange (m : Memory) (a : Nat) : List Byte → Memory
  | [] => m
  | v :: vs => Memory.writeRange (m.write a v) (a + 1) vs

/-- `BUF[i..j)` as a value (spec/00_scope.md R15). -/
def State.readBuf (s : State) (i j : Nat) : Except Nat (List Byte) :=
  s.mem.readRange (bufBase + i) (j - i)

/-- `BUF[i..i+|v|) <- v` (spec/00_scope.md R15). -/
def State.writeBuf (s : State) (i : Nat) (v : List Byte) : State :=
  { s with mem := s.mem.writeRange (bufBase + i) v }

/-! ### The two outcomes of a command (spec/60_exceptions.md R410) -/

/-- `done`: ERR <- 0x00 and STATUS.OK <- 1 (spec/00_scope.md R15). -/
def done (s : State) : Result := .next { s with err := .none, ok := true }

/-- `raise Err(e)`: ERR <- e and STATUS.OK <- 0, and the command stops (spec/00_scope.md R15).  This is
the block's whole error mechanism: there is no trap, vector or saved state (spec/60_exceptions.md
R410, R426), and no command returns from it (R427). -/
def raise (e : Err) (s : State) : Result := .next { s with err := e, ok := false }

/-! ### Register writes that commands share -/

/-- `IV <- v`: the first bytes are v, the rest zero (spec/10_state.md R43). -/
def State.setIv (s : State) (v : List Byte) : State := { s with iv := fitBytes 16 v }

/-- `LEN <- n`; every n a command writes is at most BUF_CAP (spec/10_state.md R33), so it fits. -/
def State.setLen (s : State) (n : Nat) : State := { s with len := BitVec.ofNat 16 n }

/-- The loss of the binding: what SetupFailure and RELEASE have in common (spec/45_dispatch.md R332,
R361).  BSIZE follows CTYPE. -/
def State.unbind (s : State) : State :=
  { s with
    pkey := ByteArr.zero 24, ctype := .none
    iv := ByteArr.zero 16, sk1 := ByteArr.zero 16, sk2 := ByteArr.zero 16
    skv := false, degen := false, session := .unkeyed }

/-! ### The register window (spec/10_state.md R34) -/

/-- Byte `i` of a byte-array register (spec/20_memory.md R85). -/
def byteAt {n : Nat} (r : ByteArr n) (i : Nat) : Byte := r.val.getD i 0

/-- Byte `i` of a 16-bit register, little-endian (spec/20_memory.md R85). -/
def byteOf16 (v : BitVec 16) (i : Nat) : Byte := v.extractLsb' (8 * i) 8

/-- A 16-bit register with its byte `i` replaced (spec/20_memory.md R85). -/
def setByteOf16 (v : BitVec 16) (i : Nat) (d : Byte) : BitVec 16 :=
  if i = 0 then byteOf16 v 1 ++ d else d ++ byteOf16 v 0

/-- What the host reads at a window offset below 0x0100 (spec/10_state.md R34, R44, R50): the stored byte
of a readable register, 0x00 for KEY and for a reserved offset. -/
def State.registerByte (s : State) (a : Nat) : Byte :=
  if a < 0x04 then byteOfWord s.cmd a
  else if a = 0x04 then s.status
  else if a = 0x05 then s.err.code
  else if a = 0x06 then s.ctype.code
  else if a = 0x07 then s.bsize
  else if a < 0x0A then byteOf16 s.len (a - 0x08)
  else if a < 0x0C then byteOf16 s.ofs (a - 0x0A)
  else if a < 0x10 then byteOfWord s.result (a - 0x0C)
  else if a < 0x20 then byteAt s.iv (a - 0x10)
  else if a < 0x30 then byteAt s.sk1 (a - 0x20)
  else if a < 0x40 then byteAt s.sk2 (a - 0x30)
  else if a < 0x58 then 0x00
  else if a = 0x58 then s.keylen
  else if a < 0x60 then 0x00
  else if a < 0x68 then byteAt s.mac (a - 0x60)
  else 0x00

/-- `MemRead(BASE + a, 1)` for a window offset `a` (spec/20_memory.md R82): a register byte, a byte of BUF
(none where it was never written), or 0x00 above BUF. -/
def State.windowRead (s : State) (a : Nat) : Option Byte :=
  if a < bufBase then some (s.registerByte a)
  else if a < bufBase + s.params.bufCap then s.mem.read a
  else some 0x00

/-- The storing part of `MemWrite(BASE + a, 1, v)` for a window offset `a` (spec/20_memory.md R83): CMD,
LEN, OFS, KEY, KEYLEN and BUF take the byte, every other offset ignores it. -/
def State.windowWrite (s : State) (a : Nat) (v : Byte) : State :=
  if a < 0x04 then { s with cmd := setByteOfWord s.cmd a v }
  else if a < 0x08 then s
  else if a < 0x0A then { s with len := setByteOf16 s.len (a - 0x08) v }
  else if a < 0x0C then { s with ofs := setByteOf16 s.ofs (a - 0x0A) v }
  else if a < 0x40 then s
  else if a < 0x58 then { s with key := setByte s.key (a - 0x40) v }
  else if a = 0x58 then { s with keylen := v }
  else if a < bufBase then s
  else if a < bufBase + s.params.bufCap then { s with mem := s.mem.write a v }
  else s

end Sys2Proof.Machine
end

