-- ==== Sys2Proof/Machine/Operands.lean ====
section
/-! DEFINITION. The operands of a command: the range BUF[OFS..LEN) with its LENGTH checks
(spec/10_state.md R33), the bound key, and IV_b.  MODE, SV and IMM8 are taken out by the decoder
(spec/30_encoding.md R113). -/

namespace Sys2Proof.Machine

/-- LEN as a number. -/
def State.n (s : State) : Nat := s.len.toNat

/-- OFS as a number. -/
def State.o (s : State) : Nat := s.ofs.toNat

/-- `LEN <= BUF_CAP` (spec/10_state.md R33). -/
abbrev State.lenOk (s : State) : Prop := s.n ≤ s.params.bufCap

/-- `LEN <= BUF_CAP` and then `OFS <= LEN` (spec/10_state.md R33); both failures are Err(LENGTH). -/
abbrev State.rangeOk (s : State) : Prop := s.lenOk ∧ s.o ≤ s.n

/-- A grown length fits the buffer (spec/10_state.md R33). -/
abbrev State.fits (s : State) (n' : Nat) : Prop := n' ≤ s.params.bufCap

/-- `IV_b`, the first b bytes of IV (spec/10_state.md R43). -/
def State.ivB (s : State) (b : Nat) : List Byte := s.iv.val.take b

/-- A command that goes on with the bytes BUF[i..j): all of them are read before anything is written
(spec/20_memory.md R90), and a byte never written since reset faults (log entries 4 and 5). -/
def withBuf (s : State) (i j : Nat) (k : List Byte → Result) : Result :=
  match s.readBuf i j with
  | .ok data => k data
  | .error a => .fault (.unwrittenBuf a)

/-- A command admitted in KEYED and SESSION only (spec/60_exceptions.md R414). -/
def whenKeyed (s : State) (k : Result) : Result :=
  if s.session = .unkeyed then raise .state s else k

/-- A command admitted in SESSION only (spec/60_exceptions.md R414). -/
def whenSession (s : State) (k : Result) : Result :=
  if s.session = .session then k else raise .state s

/-- A command that reads BUF[OFS..LEN): Err(LENGTH) on a bad range (spec/10_state.md R33). -/
def whenRange (s : State) (k : Result) : Result :=
  if s.rangeOk then k else raise .length s

/-- A command that reads BUF[0..LEN): Err(LENGTH) where LEN is above BUF_CAP (spec/45_dispatch.md R345). -/
def whenLen (s : State) (k : Result) : Result :=
  if s.lenOk then k else raise .length s

/-- A command that grows the data to n' bytes: Err(LENGTH), and nothing written, where that is above
BUF_CAP (spec/10_state.md R33). -/
def whenFits (s : State) (n' : Nat) (k : Result) : Result :=
  if s.fits n' then k else raise .length s

end Sys2Proof.Machine
end

