-- ==== Sys2Proof/Machine/Integrity.lean ====
section
/-! DEFINITION. The integrity helpers: CRC-16, CRC-32, padding lengths and byte rotation, as functions and as
commands (spec/46_integrity_helpers.md). -/

namespace Sys2Proof.Machine

/-! ### CRC functions (R380-R382) -/

/-- One bit of a reflected CRC: shift right, and xor the polynomial where the bit shifted out was 1
(R380, R381). -/
def crcBit {w : Nat} (poly c : BitVec w) : BitVec w :=
  if c.getLsbD 0 then (c >>> 1) ^^^ poly else c >>> 1

/-- `n` bits of a reflected CRC (R380, R381). -/
def crcBits {w : Nat} (poly : BitVec w) : Nat → BitVec w → BitVec w
  | 0, c => c
  | n + 1, c => crcBits poly n (crcBit poly c)

/-- A byte fed into a reflected CRC register: xor into bits 7..0, then eight bits (R380, R381). -/
def crcByte {w : Nat} (poly c : BitVec w) (d : Byte) : BitVec w :=
  crcBits poly 8 (c ^^^ d.setWidth w)

/-- The CRC-16 register after a string (R380): polynomial 0x8408 reflected. -/
def crc16Raw (c : BitVec 16) (x : List Byte) : BitVec 16 := x.foldl (crcByte 0x8408) c

/-- crc16(x), with CRC16_XOROUT (R380). -/
def crc16Of (p : Params) (x : List Byte) : BitVec 16 := crc16Raw 0x6363 x ^^^ p.crc16XorOut

/-- crc32_raw(c, x) (R381): polynomial 0xEDB88320 reflected. -/
def crc32Raw (c : BitVec 32) (x : List Byte) : BitVec 32 := x.foldl (crcByte 0xEDB88320) c

/-- crc32(x), with CRC32_XOROUT (R382). -/
def crc32Of (p : Params) (x : List Byte) : BitVec 32 := crc32Raw 0xFFFFFFFF x ^^^ p.crc32XorOut

/-- crc32_status(s, x): the seed register absorbs the status byte first (R382). -/
def crc32Status (p : Params) (status : Byte) (x : List Byte) : BitVec 32 :=
  crc32Raw (crc32Raw 0xFFFFFFFF [status]) x ^^^ p.crc32XorOut

/-! ### Padding lengths (R387, R388) -/

/-- padlen(n, b) = ceil(n / b) · b (R387). -/
def padlen (n b : Nat) : Nat := (n + b - 1) / b * b

/-- cmac_padlen(n, b): as padlen, but b for n = 0 (R388). -/
def cmacPadlen (n b : Nat) : Nat := if n = 0 then b else padlen n b

/-! ### Commands -/

/-- A CRC command: RESULT from BUF[OFS..LEN) (R384). -/
def crcCommand (crc : List Byte → BitVec 32) (s : State) : Result :=
  whenRange s <| withBuf s s.o s.n fun data => done { s with result := crc data }

/-- CRC16 (R384). -/
def execCrc16 (s : State) : Result := crcCommand (fun x => (crc16Of s.params x).setWidth 32) s

/-- CRC32 (R385). -/
def execCrc32 (s : State) : Result := crcCommand (crc32Of s.params) s

/-- CRC32.S s: the PREFIX form, whatever RX_STATUS_SEED is (R386). -/
def execCrc32S (status : Byte) (s : State) : Result := crcCommand (crc32Status s.params status) s

/-- A PADLEN command: RESULT from LEN alone; b = 0 is ILLEGAL (R389, spec/30_encoding.md R123; log entry
12). -/
def padlenCommand (len : Nat → Nat → Nat) (b : Byte) (s : State) : Result :=
  if b = 0 then raise .illegal s
  else done { s with result := BitVec.ofNat 32 (len s.n b.toNat) }

/-- PADLEN.ZERO b (R389). -/
def execPadlenZero (b : Byte) (s : State) : Result := padlenCommand padlen b s

/-- PADLEN.CMAC b (R390). -/
def execPadlenCmac (b : Byte) (s : State) : Result := padlenCommand cmacPadlen b s

/-- `s[r..l) ++ s[0..r)` with r = k mod l, the rotation left by k bytes (R391). -/
def rotateBytes (k : Nat) (s : List Byte) : List Byte :=
  s.drop (k % s.length) ++ s.take (k % s.length)

/-- ROTATE k (R391). -/
def execRotate (k : Byte) (s : State) : Result :=
  whenRange s <|
    if s.n - s.o = 0 then done s
    else withBuf s s.o s.n fun data => done (s.writeBuf s.o (rotateBytes k.toNat data))

end Sys2Proof.Machine
end

