-- ==== Sys2Proof/Machine/Aes.lean ====
section
/-! DEFINITION. AES-128 (spec/41_block_ciphers.md R200-R206).  The state is the block itself: byte r + 4c is
s[r][c] (R200). -/

namespace Sys2Proof.Machine

/-! ### GF(2^8) (R200) -/

/-- xtime(a) = (a << 1) xor (0x1B if a[7] = 1 else 0x00) (R200). -/
def xtime (a : Byte) : Byte := (a <<< 1) ^^^ (if a.msb then 0x1B else 0x00)

/-- Multiplication by the low `n` bits of `k`, by repeated xtime of `a` (R200). -/
def gfMulBits : Nat → Byte → Byte → Byte
  | 0, _, _ => 0
  | n + 1, k, a => (if k.getLsbD 0 then a else 0) ^^^ gfMulBits n (k >>> 1) (xtime a)

/-- The product k·a in GF(2^8) (R200). -/
def gfMul (k a : Byte) : Byte := gfMulBits 8 k a

/-! ### S-boxes (R201, R202) -/

/-- SBOX: row = high nibble, column = low nibble (R201). -/
def aesSBoxTable : List (List Byte) :=
  [ [0x63, 0x7C, 0x77, 0x7B, 0xF2, 0x6B, 0x6F, 0xC5, 0x30, 0x01, 0x67, 0x2B, 0xFE, 0xD7, 0xAB, 0x76]
  , [0xCA, 0x82, 0xC9, 0x7D, 0xFA, 0x59, 0x47, 0xF0, 0xAD, 0xD4, 0xA2, 0xAF, 0x9C, 0xA4, 0x72, 0xC0]
  , [0xB7, 0xFD, 0x93, 0x26, 0x36, 0x3F, 0xF7, 0xCC, 0x34, 0xA5, 0xE5, 0xF1, 0x71, 0xD8, 0x31, 0x15]
  , [0x04, 0xC7, 0x23, 0xC3, 0x18, 0x96, 0x05, 0x9A, 0x07, 0x12, 0x80, 0xE2, 0xEB, 0x27, 0xB2, 0x75]
  , [0x09, 0x83, 0x2C, 0x1A, 0x1B, 0x6E, 0x5A, 0xA0, 0x52, 0x3B, 0xD6, 0xB3, 0x29, 0xE3, 0x2F, 0x84]
  , [0x53, 0xD1, 0x00, 0xED, 0x20, 0xFC, 0xB1, 0x5B, 0x6A, 0xCB, 0xBE, 0x39, 0x4A, 0x4C, 0x58, 0xCF]
  , [0xD0, 0xEF, 0xAA, 0xFB, 0x43, 0x4D, 0x33, 0x85, 0x45, 0xF9, 0x02, 0x7F, 0x50, 0x3C, 0x9F, 0xA8]
  , [0x51, 0xA3, 0x40, 0x8F, 0x92, 0x9D, 0x38, 0xF5, 0xBC, 0xB6, 0xDA, 0x21, 0x10, 0xFF, 0xF3, 0xD2]
  , [0xCD, 0x0C, 0x13, 0xEC, 0x5F, 0x97, 0x44, 0x17, 0xC4, 0xA7, 0x7E, 0x3D, 0x64, 0x5D, 0x19, 0x73]
  , [0x60, 0x81, 0x4F, 0xDC, 0x22, 0x2A, 0x90, 0x88, 0x46, 0xEE, 0xB8, 0x14, 0xDE, 0x5E, 0x0B, 0xDB]
  , [0xE0, 0x32, 0x3A, 0x0A, 0x49, 0x06, 0x24, 0x5C, 0xC2, 0xD3, 0xAC, 0x62, 0x91, 0x95, 0xE4, 0x79]
  , [0xE7, 0xC8, 0x37, 0x6D, 0x8D, 0xD5, 0x4E, 0xA9, 0x6C, 0x56, 0xF4, 0xEA, 0x65, 0x7A, 0xAE, 0x08]
  , [0xBA, 0x78, 0x25, 0x2E, 0x1C, 0xA6, 0xB4, 0xC6, 0xE8, 0xDD, 0x74, 0x1F, 0x4B, 0xBD, 0x8B, 0x8A]
  , [0x70, 0x3E, 0xB5, 0x66, 0x48, 0x03, 0xF6, 0x0E, 0x61, 0x35, 0x57, 0xB9, 0x86, 0xC1, 0x1D, 0x9E]
  , [0xE1, 0xF8, 0x98, 0x11, 0x69, 0xD9, 0x8E, 0x94, 0x9B, 0x1E, 0x87, 0xE9, 0xCE, 0x55, 0x28, 0xDF]
  , [0x8C, 0xA1, 0x89, 0x0D, 0xBF, 0xE6, 0x42, 0x68, 0x41, 0x99, 0x2D, 0x0F, 0xB0, 0x54, 0xBB, 0x16] ]

/-- INV_SBOX: row = high nibble, column = low nibble (R202). -/
def aesInvSBoxTable : List (List Byte) :=
  [ [0x52, 0x09, 0x6A, 0xD5, 0x30, 0x36, 0xA5, 0x38, 0xBF, 0x40, 0xA3, 0x9E, 0x81, 0xF3, 0xD7, 0xFB]
  , [0x7C, 0xE3, 0x39, 0x82, 0x9B, 0x2F, 0xFF, 0x87, 0x34, 0x8E, 0x43, 0x44, 0xC4, 0xDE, 0xE9, 0xCB]
  , [0x54, 0x7B, 0x94, 0x32, 0xA6, 0xC2, 0x23, 0x3D, 0xEE, 0x4C, 0x95, 0x0B, 0x42, 0xFA, 0xC3, 0x4E]
  , [0x08, 0x2E, 0xA1, 0x66, 0x28, 0xD9, 0x24, 0xB2, 0x76, 0x5B, 0xA2, 0x49, 0x6D, 0x8B, 0xD1, 0x25]
  , [0x72, 0xF8, 0xF6, 0x64, 0x86, 0x68, 0x98, 0x16, 0xD4, 0xA4, 0x5C, 0xCC, 0x5D, 0x65, 0xB6, 0x92]
  , [0x6C, 0x70, 0x48, 0x50, 0xFD, 0xED, 0xB9, 0xDA, 0x5E, 0x15, 0x46, 0x57, 0xA7, 0x8D, 0x9D, 0x84]
  , [0x90, 0xD8, 0xAB, 0x00, 0x8C, 0xBC, 0xD3, 0x0A, 0xF7, 0xE4, 0x58, 0x05, 0xB8, 0xB3, 0x45, 0x06]
  , [0xD0, 0x2C, 0x1E, 0x8F, 0xCA, 0x3F, 0x0F, 0x02, 0xC1, 0xAF, 0xBD, 0x03, 0x01, 0x13, 0x8A, 0x6B]
  , [0x3A, 0x91, 0x11, 0x41, 0x4F, 0x67, 0xDC, 0xEA, 0x97, 0xF2, 0xCF, 0xCE, 0xF0, 0xB4, 0xE6, 0x73]
  , [0x96, 0xAC, 0x74, 0x22, 0xE7, 0xAD, 0x35, 0x85, 0xE2, 0xF9, 0x37, 0xE8, 0x1C, 0x75, 0xDF, 0x6E]
  , [0x47, 0xF1, 0x1A, 0x71, 0x1D, 0x29, 0xC5, 0x89, 0x6F, 0xB7, 0x62, 0x0E, 0xAA, 0x18, 0xBE, 0x1B]
  , [0xFC, 0x56, 0x3E, 0x4B, 0xC6, 0xD2, 0x79, 0x20, 0x9A, 0xDB, 0xC0, 0xFE, 0x78, 0xCD, 0x5A, 0xF4]
  , [0x1F, 0xDD, 0xA8, 0x33, 0x88, 0x07, 0xC7, 0x31, 0xB1, 0x12, 0x10, 0x59, 0x27, 0x80, 0xEC, 0x5F]
  , [0x60, 0x51, 0x7F, 0xA9, 0x19, 0xB5, 0x4A, 0x0D, 0x2D, 0xE5, 0x7A, 0x9F, 0x93, 0xC9, 0x9C, 0xEF]
  , [0xA0, 0xE0, 0x3B, 0x4D, 0xAE, 0x2A, 0xF5, 0xB0, 0xC8, 0xEB, 0xBB, 0x3C, 0x83, 0x53, 0x99, 0x61]
  , [0x17, 0x2B, 0x04, 0x7E, 0xBA, 0x77, 0xD6, 0x26, 0xE1, 0x69, 0x14, 0x63, 0x55, 0x21, 0x0C, 0x7D] ]

/-- The entry of a table at row = high nibble, column = low nibble of `a` (R201, R202). -/
def nibbleLookup (T : List (List Byte)) (a : Byte) : Byte :=
  (T.getD (a.toNat / 16) []).getD (a.toNat % 16) 0

/-- SBOX[a] (R201). -/
def aesSBox (a : Byte) : Byte := nibbleLookup aesSBoxTable a

/-- INV_SBOX[a] (R202). -/
def aesInvSBox (a : Byte) : Byte := nibbleLookup aesInvSBoxTable a

/-! ### Key expansion (R203) -/

/-- RC[1..10] (R203). -/
def aesRC : List Byte := [0x01, 0x02, 0x04, 0x08, 0x10, 0x20, 0x40, 0x80, 0x1B, 0x36]

/-- RotWord (R203). -/
def rotWord (t : List Byte) : List Byte := t.drop 1 ++ t.take 1

/-- SubWord (R203). -/
def subWord (t : List Byte) : List Byte := t.map aesSBox

/-- The next four words w[4r..4r+3], as 16 bytes, from w[4r-4..4r-1] and RC[r]: w[i] = w[i-4] xor t with
t = w[i-1], or SubWord(RotWord(w[i-1])) xor (RC[r], 0, 0, 0) for the first of the four (R203). -/
def aesNextRoundKey (rc : Byte) (k : List Byte) : List Byte :=
  let w0 := xorBytes (slice k 0 4) (xorBytes (subWord (rotWord (slice k 12 16))) [rc, 0, 0, 0])
  let w1 := xorBytes (slice k 4 8) w0
  let w2 := xorBytes (slice k 8 12) w1
  let w3 := xorBytes (slice k 12 16) w2
  w0 ++ w1 ++ w2 ++ w3

/-- Round keys r, r+1, … from round key r and the constants still to come (R203). -/
def aesRoundKeysFrom : List Byte → List Byte → List (List Byte)
  | [], k => [k]
  | rc :: rcs, k => k :: aesRoundKeysFrom rcs (aesNextRoundKey rc k)

/-- Round keys 0 to 10 of a 16-byte key (R203). -/
def aesRoundKeys (key : List Byte) : List (List Byte) := aesRoundKeysFrom aesRC key

/-! ### Round transformations (R204) -/

/-- The state whose byte s'[r][c] is byte f r c of `s` in the layout of R200. -/
def aesArrange (f : Nat → Nat → Nat) (s : List Byte) : List Byte :=
  (List.range 16).map (fun i => s.getD (f (i % 4) (i / 4)) 0)

/-- ShiftRows: s'[j][c] = s[j][(c + j) mod 4] (R204). -/
def shiftRows (s : List Byte) : List Byte := aesArrange (fun j c => j + 4 * ((c + j) % 4)) s

/-- InvShiftRows: s'[j][(c + j) mod 4] = s[j][c] (R204). -/
def invShiftRows (s : List Byte) : List Byte := aesArrange (fun j c => j + 4 * ((c + 4 - j) % 4)) s

/-- One column times the circulant matrix whose first row is k0 k1 k2 k3 (R204). -/
def mixColumn (k0 k1 k2 k3 : Byte) (s0 s1 s2 s3 : Byte) : List Byte :=
  [ gfMul k0 s0 ^^^ gfMul k1 s1 ^^^ gfMul k2 s2 ^^^ gfMul k3 s3
  , gfMul k3 s0 ^^^ gfMul k0 s1 ^^^ gfMul k1 s2 ^^^ gfMul k2 s3
  , gfMul k2 s0 ^^^ gfMul k3 s1 ^^^ gfMul k0 s2 ^^^ gfMul k1 s3
  , gfMul k1 s0 ^^^ gfMul k2 s1 ^^^ gfMul k3 s2 ^^^ gfMul k0 s3 ]

/-- A column transformation on each column of the state (R204). -/
def onColumns (f : Byte → Byte → Byte → Byte → List Byte) : List Byte → List Byte
  | s0 :: s1 :: s2 :: s3 :: rest => f s0 s1 s2 s3 ++ onColumns f rest
  | _ => []

/-- MixColumns (R204). -/
def mixColumns (s : List Byte) : List Byte := onColumns (mixColumn 2 3 1 1) s

/-- InvMixColumns (R204). -/
def invMixColumns (s : List Byte) : List Byte := onColumns (mixColumn 14 11 13 9) s

/-! ### Encryption and decryption (R205, R206) -/

/-- Rounds of AES_E with the round keys still to come; the last one has no MixColumns (R205). -/
def aesEncRounds : List (List Byte) → List Byte → List Byte
  | [], s => s
  | [k], s => xorBytes (shiftRows (s.map aesSBox)) k
  | k :: ks, s => aesEncRounds ks (xorBytes (mixColumns (shiftRows (s.map aesSBox))) k)

/-- AES_E(K, x) (R205). -/
def aesEnc (key x : List Byte) : List Byte :=
  match aesRoundKeys key with
  | [] => x
  | k :: ks => aesEncRounds ks (xorBytes x k)

/-- Rounds of AES_D with the round keys still to come, 9 first; the last one has no InvMixColumns
(R206). -/
def aesDecRounds : List (List Byte) → List Byte → List Byte
  | [], s => s
  | [k], s => xorBytes ((invShiftRows s).map aesInvSBox) k
  | k :: ks, s => aesDecRounds ks (invMixColumns (xorBytes ((invShiftRows s).map aesInvSBox) k))

/-- AES_D(K, y) (R206). -/
def aesDec (key y : List Byte) : List Byte :=
  match (aesRoundKeys key).reverse with
  | [] => y
  | k :: ks => aesDecRounds ks (xorBytes y k)

end Sys2Proof.Machine
end

