-- ==== Sys2Proof/Machine/Des.lean ====
section
/-! DEFINITION. DES and TDEA (spec/41_block_ciphers.md R190-R199).  The tables are those of the spec, row by
row; the bits of a block or key are numbered from 1 at the most significant end (R190). -/

namespace Sys2Proof.Machine

/-- Applying a permutation table (R190): bit i of the result is bit T[i] of `x`, bit 1 being the most
significant. -/
def permute {n : Nat} (m : Nat) (T : List Nat) (x : BitVec n) : BitVec m :=
  BitVec.ofNat m (T.foldl (fun acc k => 2 * acc + (x.getMsbD (k - 1)).toNat) 0)

/-! ### Tables -/

/-- PC1 (R191). -/
def desPC1 : List Nat :=
  [ 57, 49, 41, 33, 25, 17,  9
  ,  1, 58, 50, 42, 34, 26, 18
  , 10,  2, 59, 51, 43, 35, 27
  , 19, 11,  3, 60, 52, 44, 36
  , 63, 55, 47, 39, 31, 23, 15
  ,  7, 62, 54, 46, 38, 30, 22
  , 14,  6, 61, 53, 45, 37, 29
  , 21, 13,  5, 28, 20, 12,  4 ]

/-- PC2 (R191). -/
def desPC2 : List Nat :=
  [ 14, 17, 11, 24,  1,  5
  ,  3, 28, 15,  6, 21, 10
  , 23, 19, 12,  4, 26,  8
  , 16,  7, 27, 20, 13,  2
  , 41, 52, 31, 37, 47, 55
  , 30, 40, 51, 45, 33, 48
  , 44, 49, 39, 56, 34, 53
  , 46, 42, 50, 36, 29, 32 ]

/-- SH[1..16] (R191). -/
def desShifts : List Nat :=
  [  1,  1,  2,  2,  2,  2,  2,  2,  1,  2,  2,  2,  2,  2,  2,  1 ]

/-- IP (R192). -/
def desIP : List Nat :=
  [ 58, 50, 42, 34, 26, 18, 10,  2
  , 60, 52, 44, 36, 28, 20, 12,  4
  , 62, 54, 46, 38, 30, 22, 14,  6
  , 64, 56, 48, 40, 32, 24, 16,  8
  , 57, 49, 41, 33, 25, 17,  9,  1
  , 59, 51, 43, 35, 27, 19, 11,  3
  , 61, 53, 45, 37, 29, 21, 13,  5
  , 63, 55, 47, 39, 31, 23, 15,  7 ]

/-- FP (R192). -/
def desFP : List Nat :=
  [ 40,  8, 48, 16, 56, 24, 64, 32
  , 39,  7, 47, 15, 55, 23, 63, 31
  , 38,  6, 46, 14, 54, 22, 62, 30
  , 37,  5, 45, 13, 53, 21, 61, 29
  , 36,  4, 44, 12, 52, 20, 60, 28
  , 35,  3, 43, 11, 51, 19, 59, 27
  , 34,  2, 42, 10, 50, 18, 58, 26
  , 33,  1, 41,  9, 49, 17, 57, 25 ]

/-- E (R193). -/
def desE : List Nat :=
  [ 32,  1,  2,  3,  4,  5
  ,  4,  5,  6,  7,  8,  9
  ,  8,  9, 10, 11, 12, 13
  , 12, 13, 14, 15, 16, 17
  , 16, 17, 18, 19, 20, 21
  , 20, 21, 22, 23, 24, 25
  , 24, 25, 26, 27, 28, 29
  , 28, 29, 30, 31, 32,  1 ]

/-- P (R193). -/
def desP : List Nat :=
  [ 16,  7, 20, 21, 29, 12, 28, 17
  ,  1, 15, 23, 26,  5, 18, 31, 10
  ,  2,  8, 24, 14, 32, 27,  3,  9
  , 19, 13, 30,  6, 22, 11,  4, 25 ]

/-- S1 (R194), rows 0 to 3. -/
def desS1 : List (List Nat) :=
  [ [14,  4, 13,  1,  2, 15, 11,  8,  3, 10,  6, 12,  5,  9,  0,  7]
  , [ 0, 15,  7,  4, 14,  2, 13,  1, 10,  6, 12, 11,  9,  5,  3,  8]
  , [ 4,  1, 14,  8, 13,  6,  2, 11, 15, 12,  9,  7,  3, 10,  5,  0]
  , [15, 12,  8,  2,  4,  9,  1,  7,  5, 11,  3, 14, 10,  0,  6, 13] ]

/-- S2 (R194), rows 0 to 3. -/
def desS2 : List (List Nat) :=
  [ [15,  1,  8, 14,  6, 11,  3,  4,  9,  7,  2, 13, 12,  0,  5, 10]
  , [ 3, 13,  4,  7, 15,  2,  8, 14, 12,  0,  1, 10,  6,  9, 11,  5]
  , [ 0, 14,  7, 11, 10,  4, 13,  1,  5,  8, 12,  6,  9,  3,  2, 15]
  , [13,  8, 10,  1,  3, 15,  4,  2, 11,  6,  7, 12,  0,  5, 14,  9] ]

/-- S3 (R194), rows 0 to 3. -/
def desS3 : List (List Nat) :=
  [ [10,  0,  9, 14,  6,  3, 15,  5,  1, 13, 12,  7, 11,  4,  2,  8]
  , [13,  7,  0,  9,  3,  4,  6, 10,  2,  8,  5, 14, 12, 11, 15,  1]
  , [13,  6,  4,  9,  8, 15,  3,  0, 11,  1,  2, 12,  5, 10, 14,  7]
  , [ 1, 10, 13,  0,  6,  9,  8,  7,  4, 15, 14,  3, 11,  5,  2, 12] ]

/-- S4 (R194), rows 0 to 3. -/
def desS4 : List (List Nat) :=
  [ [ 7, 13, 14,  3,  0,  6,  9, 10,  1,  2,  8,  5, 11, 12,  4, 15]
  , [13,  8, 11,  5,  6, 15,  0,  3,  4,  7,  2, 12,  1, 10, 14,  9]
  , [10,  6,  9,  0, 12, 11,  7, 13, 15,  1,  3, 14,  5,  2,  8,  4]
  , [ 3, 15,  0,  6, 10,  1, 13,  8,  9,  4,  5, 11, 12,  7,  2, 14] ]

/-- S5 (R194), rows 0 to 3. -/
def desS5 : List (List Nat) :=
  [ [ 2, 12,  4,  1,  7, 10, 11,  6,  8,  5,  3, 15, 13,  0, 14,  9]
  , [14, 11,  2, 12,  4,  7, 13,  1,  5,  0, 15, 10,  3,  9,  8,  6]
  , [ 4,  2,  1, 11, 10, 13,  7,  8, 15,  9, 12,  5,  6,  3,  0, 14]
  , [11,  8, 12,  7,  1, 14,  2, 13,  6, 15,  0,  9, 10,  4,  5,  3] ]

/-- S6 (R194), rows 0 to 3. -/
def desS6 : List (List Nat) :=
  [ [12,  1, 10, 15,  9,  2,  6,  8,  0, 13,  3,  4, 14,  7,  5, 11]
  , [10, 15,  4,  2,  7, 12,  9,  5,  6,  1, 13, 14,  0, 11,  3,  8]
  , [ 9, 14, 15,  5,  2,  8, 12,  3,  7,  0,  4, 10,  1, 13, 11,  6]
  , [ 4,  3,  2, 12,  9,  5, 15, 10, 11, 14,  1,  7,  6,  0,  8, 13] ]

/-- S7 (R194), rows 0 to 3. -/
def desS7 : List (List Nat) :=
  [ [ 4, 11,  2, 14, 15,  0,  8, 13,  3, 12,  9,  7,  5, 10,  6,  1]
  , [13,  0, 11,  7,  4,  9,  1, 10, 14,  3,  5, 12,  2, 15,  8,  6]
  , [ 1,  4, 11, 13, 12,  3,  7, 14, 10, 15,  6,  8,  0,  5,  9,  2]
  , [ 6, 11, 13,  8,  1,  4, 10,  7,  9,  5,  0, 15, 14,  2,  3, 12] ]

/-- S8 (R194), rows 0 to 3. -/
def desS8 : List (List Nat) :=
  [ [13,  2,  8,  4,  6, 15, 11,  1, 10,  9,  3, 14,  5,  0, 12,  7]
  , [ 1, 15, 13,  8, 10,  3,  7,  4, 12,  5,  6, 11,  0, 14,  9,  2]
  , [ 7, 11,  4,  1,  9, 12, 14,  2,  0,  6, 10, 13, 15,  3,  5,  8]
  , [ 2,  1, 14,  7,  4, 10,  8, 13, 15, 12,  9,  0,  3,  5,  6, 11] ]

/-- S1 to S8 in order (R194). -/
def desSBoxes : List (List (List Nat)) :=
  [desS1, desS2, desS3, desS4, desS5, desS6, desS7, desS8]

/-! ### Key schedule (R191) -/

/-- ROL_s of a 28-bit value (R190). -/
def rol28 (s : Nat) (v : BitVec 28) : BitVec 28 := v.rotateLeft s

/-- K_i, K_(i+1), … from C_(i-1), D_(i-1) and the shifts still to come (R191). -/
def desSubkeysFrom : List Nat → BitVec 28 → BitVec 28 → List (BitVec 48)
  | [], _, _ => []
  | s :: ss, c, d =>
    permute 48 desPC2 (rol28 s c ++ rol28 s d) :: desSubkeysFrom ss (rol28 s c) (rol28 s d)

/-- K_1 to K_16 of a 64-bit key (R191). -/
def desSubkeys (key : BitVec 64) : List (BitVec 48) :=
  let cd := permute 56 desPC1 key
  desSubkeysFrom desShifts (cd.extractLsb' 28 28) (cd.extractLsb' 0 28)

/-! ### The round function (R194, R195) -/

/-- One S-box on a 6-bit group b1..b6: row b1 b6, column b2 b3 b4 b5 (R194). -/
def desSBox (S : List (List Nat)) (g : BitVec 6) : BitVec 4 :=
  let row := (BitVec.ofBool (g.getMsbD 0) ++ BitVec.ofBool (g.getMsbD 5)).toNat
  let col := (g.extractLsb' 1 4).toNat
  BitVec.ofNat 4 ((S.getD row []).getD col 0)

/-- S1(B_1) ++ … ++ S8(B_8), B_1 holding bits 1 to 6 (R195). -/
def desSubstitute (x : BitVec 48) : BitVec 32 :=
  BitVec.ofNat 32 (desSBoxes.zipIdx.foldl
    (fun acc (S, i) => 16 * acc + (desSBox S (x.extractLsb' (6 * (7 - i)) 6)).toNat) 0)

/-- f(R, K_i) (R195). -/
def desF (r : BitVec 32) (k : BitVec 48) : BitVec 32 :=
  permute 32 desP (desSubstitute (permute 48 desE r ^^^ k))

/-! ### Encryption and decryption (R196, R197) -/

/-- One round: L_i = R_(i-1), R_i = L_(i-1) xor f(R_(i-1), K_i) (R196). -/
def desRound (lr : BitVec 32 × BitVec 32) (k : BitVec 48) : BitVec 32 × BitVec 32 :=
  (lr.2, lr.1 ^^^ desF lr.2 k)

/-- The 16 rounds between IP and FP, with the subkeys in the given order (R196). -/
def desCore (ks : List (BitVec 48)) (x : BitVec 64) : BitVec 64 :=
  let y := permute 64 desIP x
  let lr := ks.foldl desRound (y.extractLsb' 32 32, y.extractLsb' 0 32)
  permute 64 desFP (lr.2 ++ lr.1)

/-- DES_E on bit strings (R196). -/
def desEncBits (key x : BitVec 64) : BitVec 64 := desCore (desSubkeys key) x

/-- DES_D on bit strings: the subkeys in reverse order (R197). -/
def desDecBits (key x : BitVec 64) : BitVec 64 := desCore (desSubkeys key).reverse x

/-- TDEA_E(K1, K2, K3, x) (R199). -/
def tdeaEncBits (k1 k2 k3 x : BitVec 64) : BitVec 64 :=
  desEncBits k3 (desDecBits k2 (desEncBits k1 x))

/-- TDEA_D(K1, K2, K3, y) (R199). -/
def tdeaDecBits (k1 k2 k3 y : BitVec 64) : BitVec 64 :=
  desDecBits k1 (desEncBits k2 (desDecBits k3 y))

end Sys2Proof.Machine
end

