-- ==== Sys2Proof/Machine/Primitive.lean ====
section
/-! DEFINITION. The block functions E_c and D_c, CBC chaining, and the three DO_CRYPTO commands
(spec/40_primitive.md). -/

namespace Sys2Proof.Machine

/-! ### Block functions (R150) -/

/-- K[0..8), the first DES key (R150). -/
def desKey1 (K : List Byte) : BitVec 64 := bitsOfBlock 64 (slice K 0 8)

/-- K[8..16), the second DES key (R150). -/
def desKey2 (K : List Byte) : BitVec 64 := bitsOfBlock 64 (slice K 8 16)

/-- K[16..24), the third DES key (R150). -/
def desKey3 (K : List Byte) : BitVec 64 := bitsOfBlock 64 (slice K 16 24)

/-- A function of 64-bit strings as a function of 8-byte blocks (spec/00_scope.md R14). -/
def onBlock64 (f : BitVec 64 → BitVec 64) (x : List Byte) : List Byte :=
  blockOfBits 8 (f (bitsOfBlock 64 x))

/-- A function of 128-bit strings as a function of 16-byte blocks (spec/00_scope.md R14). -/
def onBlock128 (f : BitVec 128 → BitVec 128) (x : List Byte) : List Byte :=
  blockOfBits 16 (f (bitsOfBlock 128 x))

/-- E_c(K, x) (R150): the standard algorithm, or the opaque one under `BLOCK_FNS = ABSTRACT`
(spec/00_scope.md R12; log entry 9). -/
def blockEnc (fns : BlockFns) (p : Primitive) (K x : List Byte) : List Byte :=
  match fns, p with
  | .standard, .des => onBlock64 (desEncBits (desKey1 K)) x
  | .standard, .des3_2k => onBlock64 (tdeaEncBits (desKey1 K) (desKey2 K) (desKey1 K)) x
  | .standard, .des3_3k => onBlock64 (tdeaEncBits (desKey1 K) (desKey2 K) (desKey3 K)) x
  | .standard, .aes128 => aesEnc (slice K 0 16) x
  | .abstract, .aes128 => onBlock128 (Config.abstractCipher128 K) x
  | .abstract, p => onBlock64 (Config.abstractCipher64 p K) x

/-- D_c(K, y) (R150), in the same two forms. -/
def blockDec (fns : BlockFns) (p : Primitive) (K y : List Byte) : List Byte :=
  match fns, p with
  | .standard, .des => onBlock64 (desDecBits (desKey1 K)) y
  | .standard, .des3_2k => onBlock64 (tdeaDecBits (desKey1 K) (desKey2 K) (desKey1 K)) y
  | .standard, .des3_3k => onBlock64 (tdeaDecBits (desKey1 K) (desKey2 K) (desKey3 K)) y
  | .standard, .aes128 => aesDec (slice K 0 16) y
  | .abstract, .aes128 => onBlock128 (Config.abstractCipher128 K).symm y
  | .abstract, p => onBlock64 (Config.abstractCipher64 p K).symm y

/-! ### Degenerate keys (R154) -/

/-- `degenerate(c, K)`: type des3_2k with equal key halves (R154). -/
def degenerate (c : CipherType) (K : List Byte) : Bool :=
  c == .des3_2k && slice K 0 8 == slice K 8 16

/-! ### CBC chaining (R156, R157) -/

/-- The first `m` blocks of `b` bytes of a string. -/
def blocksOf (b : Nat) : Nat → List Byte → List (List Byte)
  | 0, _ => []
  | m + 1, s => s.take b :: blocksOf b m (s.drop b)

/-- The blocks of a string of whole blocks (R156). -/
def blocks (b : Nat) (s : List Byte) : List (List Byte) := blocksOf b (s.length / b) s

/-- CBC encryption over a list of blocks: C_i = E(P_i xor C_(i-1)); answers the ciphertext and the last
chaining value, which is iv when there is no block (R156). -/
def cbcEncBlocks (E : List Byte → List Byte) : List Byte → List (List Byte) → List Byte × List Byte
  | iv, [] => ([], iv)
  | iv, p :: ps =>
    let c := E (xorBytes p iv)
    let r := cbcEncBlocks E c ps
    (c ++ r.1, r.2)

/-- CBC decryption over a list of blocks: P_i = D(C_i) xor C_(i-1); the chaining value is the previous
ciphertext block (R156; spec/90_conflicts.md C10). -/
def cbcDecBlocks (D : List Byte → List Byte) : List Byte → List (List Byte) → List Byte × List Byte
  | iv, [] => ([], iv)
  | iv, c :: cs =>
    let r := cbcDecBlocks D c cs
    (xorBytes (D c) iv ++ r.1, r.2)

/-- CBC_ENC(c, K, iv, P) (R156). -/
def cbcEnc (fns : BlockFns) (p : Primitive) (K iv s : List Byte) : List Byte × List Byte :=
  cbcEncBlocks (blockEnc fns p K) iv (blocks (blockSize p) s)

/-- CBC_DEC(c, K, iv, C) (R156). -/
def cbcDec (fns : BlockFns) (p : Primitive) (K iv s : List Byte) : List Byte × List Byte :=
  cbcDecBlocks (blockDec fns p K) iv (blocks (blockSize p) s)

/-- CBC_MAC(c, K, iv, P), which is CBC encryption whatever the direction (R157). -/
def cbcMac (fns : BlockFns) (p : Primitive) (K iv s : List Byte) : List Byte × List Byte :=
  cbcEnc fns p K iv s

/-! ### DO_CRYPTO (R160) -/

/-- The common behaviour of DO_CRYPTO with chaining function `F` (R160). -/
def doCrypto (F : BlockFns → Primitive → List Byte → List Byte → List Byte → List Byte × List Byte)
    (s : State) : Result :=
  whenKeyed s <|
    match primitiveOf s.ctype with
    | none => raise .unsupported s
    | some p =>
      whenRange s <|
        if (s.n - s.o) % blockSize p ≠ 0 then raise .length s
        else withBuf s s.o s.n fun data =>
          let r := F s.params.blockFns p s.pkey.val (s.ivB (blockSize p)) data
          done ((s.writeBuf s.o r.1).setIv r.2)

/-- DO_CRYPTO.ENC (R161). -/
def execDoCryptoEnc (s : State) : Result := doCrypto cbcEnc s

/-- DO_CRYPTO.DEC (R162). -/
def execDoCryptoDec (s : State) : Result := doCrypto cbcDec s

/-- DO_CRYPTO.MAC (R163). -/
def execDoCryptoMac (s : State) : Result := doCrypto cbcMac s

end Sys2Proof.Machine
end

