-- ==== Sys2Proof/Machine/Cmac.lean ====
section
/-! DEFINITION. The CMAC engine and its two commands (spec/42_cmac.md). -/

namespace Sys2Proof.Machine

/-! ### Doubling and subkeys (R240-R242) -/

/-- Rb: 0x87 for b = 16 and 0x1B for b = 8 (R240). -/
def cmacRb (b : Nat) : Byte := if b = 16 then 0x87 else 0x1B

/-- A string shifted left by one bit, the bit shifted out of byte 0 discarded (R241). -/
def shiftLeft1 : List Byte → List Byte
  | [] => []
  | [x] => [x <<< 1]
  | x :: y :: r => ((x <<< 1) ||| (y >>> 7)) :: shiftLeft1 (y :: r)

/-- dbl(X): the last byte takes Rb where the bit shifted out was 1 (R241). -/
def dbl (b : Nat) (X : List Byte) : List Byte :=
  let Y := shiftLeft1 X
  if (X.getD 0 0).msb then xorBytes Y (zeros (b - 1) ++ [cmacRb b]) else Y

/-- L = E_c(K, zeros(b)), as the CBC-MAC of one zero block from a local zero IV (R242). -/
def cmacL (fns : BlockFns) (p : Primitive) (K : List Byte) : List Byte :=
  (cbcMac fns p K (zeros (blockSize p)) (zeros (blockSize p))).2

/-- K1 = dbl(L), subkey-no-pad (R242). -/
def cmacK1 (fns : BlockFns) (p : Primitive) (K : List Byte) : List Byte :=
  dbl (blockSize p) (cmacL fns p K)

/-- K2 = dbl(dbl(L)), subkey-pad (R242). -/
def cmacK2 (fns : BlockFns) (p : Primitive) (K : List Byte) : List Byte :=
  dbl (blockSize p) (cmacK1 fns p K)

/-- DeriveSubkeys(c, K): SK1, SK2 and SUBKEYS_VALID; IV is neither read nor written (R242). -/
def deriveSubkeys (p : Primitive) (s : State) : State :=
  { s with
    sk1 := fitBytes 16 (cmacK1 s.params.blockFns p s.pkey.val)
    sk2 := fitBytes 16 (cmacK2 s.params.blockFns p s.pkey.val)
    skv := true }

/-! ### The CMAC function (R244, R245) -/

/-- cmac_format(M): a complete last block takes K1; else 0x80 and zeros are appended and the last block
takes K2, an empty message being one such block (R244). -/
def cmacFormat (b : Nat) (K1 K2 M : List Byte) : List Byte :=
  let n := M.length
  if 0 < n ∧ n % b = 0 then
    M.take (n - b) ++ xorBytes (M.drop (n - b)) K1
  else
    let P := M ++ [0x80] ++ zeros ((b - (n + 1) % b) % b)
    P.take (P.length - b) ++ xorBytes (P.drop (P.length - b)) K2

/-- cmac(c, K, iv, M) with the subkeys of the state: the CMAC-8 and the final chaining block (R245). -/
def State.cmac (s : State) (p : Primitive) (iv M : List Byte) : List Byte × List Byte :=
  let b := blockSize p
  let v := (cbcMac s.params.blockFns p s.pkey.val iv
    (cmacFormat b (s.sk1.val.take b) (s.sk2.val.take b) M)).2
  (v.take 8, v)

/-! ### Commands -/

/-- CMAC_SUBKEYS (R243). -/
def execCmacSubkeys (s : State) : Result :=
  whenKeyed s <|
    match factory s.ctype with
    | .default p => done (deriveSubkeys p s)
    | .identity | .legacy _ => raise .unsupported s

/-- COMPUTE_CMAC (R246): SUBKEYS_VALID is checked after the family and before the range (spec/60_exceptions.md
R420). -/
def execComputeCmac (s : State) : Result :=
  whenKeyed s <|
    match factory s.ctype with
    | .default p =>
      if s.skv = false then raise .state s
      else whenRange s <| withBuf s s.o s.n fun data =>
        let r := s.cmac p (s.ivB (blockSize p)) data
        done { s.setIv r.2 with mac := fitBytes 8 r.1 }
    | .identity | .legacy _ => raise .unsupported s

end Sys2Proof.Machine
end

