-- ==== Sys2Proof/Machine/Session.lean ====
section
/-! DEFINITION. The commands that bind a family and run a session: SETUP_KEY, INIT_SESSION, REINIT_SESSION and
RELEASE (spec/45_dispatch.md R330-R336, R361). -/

namespace Sys2Proof.Machine

/-- The clearing of the key staging, on success and on failure (R331). -/
def State.clearStaging (s : State) : State := { s with key := ByteArr.zero 24, keylen := 0 }

/-- The binding of type `t` with key bytes `K` (R331).  DEGEN is kept. -/
def State.bind (s : State) (t : CipherType) (K : List Byte) : State :=
  { s with
    pkey := fitBytes 24 K, ctype := t
    iv := ByteArr.zero 16, sk1 := ByteArr.zero 16, sk2 := ByteArr.zero 16
    skv := false, session := .keyed }

/-- SETUP_KEY t (R331, with SetupFailure of R332). -/
def execSetupKey (t : CipherType) (s : State) : Result :=
  if s.keylen.toNat = keyBytes t then
    done (s.clearStaging.bind t (slice s.key.val 0 (keyBytes t)))
  else raise .keySetup s.clearStaging.unbind

/-- SessionStart() after its checks (R334): IV is zeroed, the subkeys of a default-wrapper family are derived,
and the state becomes SESSION. -/
def sessionStart (s : State) : State :=
  let s' := { s with iv := ByteArr.zero 16 }
  let s'' := match factory s.ctype with
    | .default p => deriveSubkeys p s'
    | .identity | .legacy _ => s'
  { s'' with session := .session }

/-- INIT_SESSION (R335).  The random bytes are checked for range and not read (R334). -/
def execInitSession (s : State) : Result :=
  whenKeyed s <| whenRange s <|
    done { sessionStart s with degen := degenerate s.ctype s.pkey.val }

/-- REINIT_SESSION (R336): as INIT_SESSION, but DEGENERATE stays. -/
def execReinitSession (s : State) : Result :=
  whenKeyed s <| whenRange s <| done (sessionStart s)

/-- RELEASE (R361). -/
def execRelease (s : State) : Result :=
  done { s.clearStaging.unbind with mac := ByteArr.zero 8 }

end Sys2Proof.Machine
end

