-- ==== Sys2Proof/Machine/Legacy.lean ====
section
/-! DEFINITION. The transforms of the legacy wrapper, types des and des3_2k (spec/43_legacy_wrapper.md).  They
run after the common checks of spec/45_dispatch.md R340 and R345. -/

namespace Sys2Proof.Machine

/-- LMAC(c, K, s): the CBC-MAC of the zero-padded string from a zero IV; zeros(8) for the empty string
(R271). -/
def legacyMac (fns : BlockFns) (p : Primitive) (K x : List Byte) : List Byte :=
  (cbcMac fns p K (zeros 8) (x ++ zeros (padlen x.length 8 - x.length))).2

/-- LTX_MAC (R272). -/
def legacyTxMac (p : Primitive) (s : State) : Result :=
  whenFits s (s.n + 4) <| withBuf s s.o s.n fun x =>
    let v := legacyMac s.params.blockFns p s.pkey.val x
    done (((s.writeBuf s.n (v.take 4)).setLen (s.n + 4)).setIv v)

/-- The plaintext tail of LTX_CIPHER: the slice, its CRC-16 and zero padding to whole blocks (R273). -/
def legacyTail (q : Params) (x : List Byte) : List Byte :=
  let t := x ++ le16 (crc16Of q x)
  t ++ zeros (padlen t.length 8 - t.length)

/-- LTX_CIPHER (R273).  The final length depends on the length of the slice alone, so the check comes
before the slice is read. -/
def legacyTxCipher (p : Primitive) (s : State) : Result :=
  let total := s.o + padlen (s.n - s.o + 2) 8
  whenFits s total <| withBuf s s.o s.n fun x =>
    let r := cbcEnc s.params.blockFns p s.pkey.val (zeros 8) (legacyTail s.params x)
    done (((s.writeBuf s.o r.1).setLen total).setIv r.2)

/-- LRX_MAC (R274): IV is written also where the MAC does not match. -/
def legacyRxMac (p : Primitive) (s : State) : Result :=
  if s.n < 4 then raise .integrity s
  else withBuf s 0 s.n fun x =>
    let v := legacyMac s.params.blockFns p s.pkey.val (x.take (s.n - 4))
    let s' := s.setIv v
    if v.take 4 ≠ x.drop (s.n - 4) then raise .integrity s'
    else done (s'.setLen (s.n - 4))

/-- The first payload length from `lo` up to `hi` whose following bytes are the trailer and then zeros
(R275, spec/44_default_wrapper.md R311; spec/90_conflicts.md C6, C14). -/
def findPayload (P : List Byte) (trailer : List Byte → List Byte) (lo hi : Nat) : Option Nat :=
  (List.range' lo (hi + 1 - lo)).find? fun L =>
    let rest := P.drop L
    let w := (trailer (P.take L)).length
    rest.take w == trailer (P.take L) && rest.drop w == zeros (P.length - L - w)

/-- LRX_CIPHER (R275): BUF and IV are written also where no trailer matches. -/
def legacyRxCipher (p : Primitive) (s : State) : Result :=
  if s.n < 8 ∨ s.n % 8 ≠ 0 then raise .integrity s
  else withBuf s 0 s.n fun c =>
    let r := cbcDec s.params.blockFns p s.pkey.val (zeros 8) c
    let s' := (s.writeBuf 0 r.1).setIv r.2
    match findPayload r.1 (fun x => le16 (crc16Of s.params x)) (s.n - 9) (s.n - 2) with
    | some L => done (s'.setLen L)
    | none => raise .integrity s'

end Sys2Proof.Machine
end

