-- ==== Sys2Proof/Machine/Default.lean ====
section
/-! DEFINITION. The transforms of the default wrapper, types des3_3k and aes128 (spec/44_default_wrapper.md).
They run after the common checks of spec/45_dispatch.md R340 and R345, and chain through IV. -/

namespace Sys2Proof.Machine

/-- DTX_MAC: the CMAC-8 of the whole buffer; OFS and MAC take no part (R301). -/
def defaultTxMac (p : Primitive) (s : State) : Result :=
  whenFits s (s.n + 8) <| withBuf s 0 s.n fun x =>
    let r := s.cmac p (s.ivB (blockSize p)) x
    done (((s.writeBuf s.n r.1).setLen (s.n + 8)).setIv r.2)

/-- The padding that makes the tail from OFS whole blocks, for a buffer of `t` bytes (R302). -/
def defaultPad (b o t : Nat) : Nat := (b - (t - o) % b) % b

/-- The plaintext t' of DTX_CIPHER: the whole buffer, its CRC-32 and zero padding (R302). -/
def defaultPlain (q : Params) (b o : Nat) (x : List Byte) : List Byte :=
  let t := x ++ le32 (crc32Of q x)
  t ++ zeros (defaultPad b o t.length)

/-- DTX_CIPHER (R302), with the CMAC over the ciphertext that gives the new IV (R303). -/
def defaultTxCipher (p : Primitive) (s : State) : Result :=
  let b := blockSize p
  let total := s.n + 4 + defaultPad b s.o (s.n + 4)
  whenFits s total <| withBuf s 0 s.n fun x =>
    let r := cbcEnc s.params.blockFns p s.pkey.val (s.ivB b) ((defaultPlain s.params b s.o x).drop s.o)
    let m := s.cmac p r.2 r.1
    done (((s.writeBuf s.o r.1).setLen total).setIv m.2)

/-- DRX_MAC (R310): IV is written also where the MAC does not match. -/
def defaultRxMac (p : Primitive) (s : State) : Result :=
  if s.n < 8 then raise .integrity s
  else withBuf s 0 s.n fun x =>
    let r := s.cmac p (s.ivB (blockSize p)) (x.take (s.n - 8))
    let s' := s.setIv r.2
    if r.1 ≠ x.drop (s.n - 8) then raise .integrity s'
    else done (s'.setLen (s.n - 8))

/-- crcS(s, x): the CRC-32 with the caller's status byte as RX_STATUS_SEED says (R312). -/
def crc32Seeded (q : Params) (status : Option Byte) (x : List Byte) : BitVec 32 :=
  match status with
  | none => crc32Of q x
  | some s =>
    match q.rxStatusSeed with
    | .seedPrefix => crc32Status q s x
    | .seedSuffix => crc32Of q (x ++ [s])
    | .seedIgnore => crc32Of q x

/-- DRX_CIPHER (R311): BUF and IV are written also where no trailer matches; there is no CMAC step. -/
def defaultRxCipher (p : Primitive) (status : Option Byte) (s : State) : Result :=
  let b := blockSize p
  if s.n < b ∨ s.n % b ≠ 0 then raise .integrity s
  else withBuf s 0 s.n fun c =>
    let r := cbcDec s.params.blockFns p s.pkey.val (s.ivB b) c
    let s' := (s.writeBuf 0 r.1).setIv r.2
    match findPayload r.1 (fun x => le32 (crc32Seeded s.params status x))
        (s.n - 4 - (b - 1)) (s.n - 4) with
    | some L => done (s'.setLen L)
    | none => raise .integrity s'

end Sys2Proof.Machine
end

