-- ==== Sys2Proof/Machine/Transfer.lean ====
section
/-! DEFINITION. The mode dispatcher: PREPARE_TX and CONFIRM_RX (spec/45_dispatch.md R340-R349). -/

namespace Sys2Proof.Machine

/-- PREPARE_TX in mac or cipher mode: PrepareCheck (R340), then the transform of the bound wrapper.  The
identity wrapper refuses the mode (R333). -/
def prepareTx (legacy default : Primitive → State → Result) (s : State) : Result :=
  whenSession s <|
    match factory s.ctype with
    | .identity => raise .modeViolation s
    | .legacy p => whenRange s (legacy p s)
    | .default p => whenRange s (default p s)

/-- CONFIRM_RX in mac or cipher mode: ConfirmCheck (R345), then the transform of the bound wrapper. -/
def confirmRx (legacy default : Primitive → State → Result) (s : State) : Result :=
  whenSession s <|
    match factory s.ctype with
    | .identity => raise .modeViolation s
    | .legacy p => whenLen s (legacy p s)
    | .default p => whenLen s (default p s)

/-- PREPARE_TX.PLAIN (R341). -/
def execPrepareTxPlain (s : State) : Result := whenSession s (done s)

/-- PREPARE_TX.MAC (R342). -/
def execPrepareTxMac (s : State) : Result := prepareTx legacyTxMac defaultTxMac s

/-- PREPARE_TX.CIPHER (R343). -/
def execPrepareTxCipher (s : State) : Result := prepareTx legacyTxCipher defaultTxCipher s

/-- CONFIRM_RX.PLAIN (R346). -/
def execConfirmRxPlain (s : State) : Result := whenSession s (done s)

/-- CONFIRM_RX.MAC (R347). -/
def execConfirmRxMac (s : State) : Result := confirmRx legacyRxMac defaultRxMac s

/-- CONFIRM_RX.CIPHER (R348). -/
def execConfirmRxCipher (s : State) : Result :=
  confirmRx legacyRxCipher (fun p => defaultRxCipher p none) s

/-- CONFIRM_RX.CIPHER.S s (R349): the legacy wrapper takes no status byte. -/
def execConfirmRxCipherS (status : Byte) (s : State) : Result :=
  confirmRx legacyRxCipher (fun p => defaultRxCipher p (some status)) s

end Sys2Proof.Machine
end

