-- ==== Sys2Proof/Machine/Dispatch.lean ====
section
/-! DEFINITION. The dispatcher: one arm per command, each a direct call of its meaning. -/

namespace Sys2Proof.Machine

def exec (i : Instr) (s : State) : Host.Outcome State Fault Refusal :=
  match i with
  -- spec/45_dispatch.md: key setup and session control
  | .setupKey t => Sys2Proof.Machine.execSetupKey t s
  | .initSession => Sys2Proof.Machine.execInitSession s
  | .reinitSession => Sys2Proof.Machine.execReinitSession s
  -- spec/40_primitive.md
  | .doCryptoEnc => Sys2Proof.Machine.execDoCryptoEnc s
  | .doCryptoDec => Sys2Proof.Machine.execDoCryptoDec s
  | .doCryptoMac => Sys2Proof.Machine.execDoCryptoMac s
  -- spec/42_cmac.md
  | .cmacSubkeys => Sys2Proof.Machine.execCmacSubkeys s
  | .computeCmac => Sys2Proof.Machine.execComputeCmac s
  -- spec/45_dispatch.md: the mode dispatcher
  | .prepareTxPlain => Sys2Proof.Machine.execPrepareTxPlain s
  | .prepareTxMac => Sys2Proof.Machine.execPrepareTxMac s
  | .prepareTxCipher => Sys2Proof.Machine.execPrepareTxCipher s
  | .confirmRxPlain => Sys2Proof.Machine.execConfirmRxPlain s
  | .confirmRxMac => Sys2Proof.Machine.execConfirmRxMac s
  | .confirmRxCipher => Sys2Proof.Machine.execConfirmRxCipher s
  | .confirmRxCipherS status => Sys2Proof.Machine.execConfirmRxCipherS status s
  -- spec/46_integrity_helpers.md
  | .crc16 => Sys2Proof.Machine.execCrc16 s
  | .crc32 => Sys2Proof.Machine.execCrc32 s
  | .crc32S status => Sys2Proof.Machine.execCrc32S status s
  | .padlenZero b => Sys2Proof.Machine.execPadlenZero b s
  | .padlenCmac b => Sys2Proof.Machine.execPadlenCmac b s
  | .rotate k => Sys2Proof.Machine.execRotate k s
  -- spec/45_dispatch.md: release
  | .release => Sys2Proof.Machine.execRelease s

end Sys2Proof.Machine
end

