-- ==== Sys2Proof/Machine/Bus.lean ====
section
/-! DEFINITION. The host side of the block: single-byte reads and writes of the register window, the issue of
a command by the write to CMD byte 3, and the reset input (spec/20_memory.md R80-R84; spec/30_encoding.md
R111, R123; spec/70_reset_and_hazards.md R450). -/

namespace Sys2Proof.Machine

/-- The size of the window (spec/20_memory.md R80). -/
def windowSize : Nat := 0x10000

/-- The window offset whose write issues a command (spec/10_state.md R35). -/
def issueOffset : Nat := 0x0003

/-- The window offset of a bus address, where it lies in the window at BASE (spec/20_memory.md R80). -/
def windowOffset (p : Params) (addr : Nat) : Option Nat :=
  if p.base ≤ addr ∧ addr < p.base + windowSize then some (addr - p.base) else none

/-- The command word in CMD is decoded and executed (spec/30_encoding.md R111); an illegal word executes as
`raise Err(ILLEGAL)` (R123). -/
def issue (s : State) : Result :=
  match decodeWord s.cmd with
  | .ok i => exec i s
  | .error _ => raise .illegal s

/-- `MemWrite(BASE + a, 1, v)`: the byte is stored or ignored, and offset 0x0003 then issues
(spec/20_memory.md R83). -/
def acceptWrite (addr : Nat) (v : Byte) (s : State) : Result :=
  match windowOffset s.params addr with
  | none => .fault (.outsideWindow addr)
  | some a => if a = issueOffset then issue (s.windowWrite a v) else .next (s.windowWrite a v)

/-- `MemRead(BASE + a, 1)`: the byte goes to the host, and nothing else changes (spec/20_memory.md R82). -/
def acceptRead (addr : Nat) (s : State) : Result :=
  match windowOffset s.params addr with
  | none => .fault (.outsideWindow addr)
  | some a =>
    match s.windowRead a with
    | some v => .next { s with readLog := s.readLog ++ [v] }
    | none => .fault (.unwrittenBuf a)

/-- The reset input: the block returns to its reset state; what the host still sends, and what it has read, is
the host's (spec/70_reset_and_hazards.md R450; log entry 10). -/
def acceptReset (s : State) : State :=
  { State.resetWith s.params with pending := s.pending, readLog := s.readLog }

/-- One event from outside, taken to its end (spec/20_memory.md R84). -/
def accept (e : HostEvent) (s : State) : Result :=
  match e with
  | .read addr => acceptRead addr s
  | .write addr v => acceptWrite addr v s
  | .wide addr width => .refused (.wideAccess addr width)
  | .reset => .next (acceptReset s)

/-- One step: the next event is taken; with none to come the block is idle and keeps its state
(spec/60_exceptions.md R433; log entry 2). -/
def stepBus (s : State) : Result :=
  match s.pending with
  | [] => .next s
  | e :: rest => accept e { s with pending := rest }

/-- The state in which CMD bytes 0 to 2 hold those of the word and the next event is the host's write of
byte 3: the last access of `ISSUE w` (spec/30_encoding.md R128; log entry 1). -/
def State.withIssueOf (s : State) (w : BitVec 32) : State :=
  { s with
    cmd := setByteOfWord w 3 (byteOfWord s.cmd 3)
    pending := .write (s.params.base + issueOffset) (byteOfWord w 3) :: s.pending }

end Sys2Proof.Machine
end

