-- ==== Sys2Proof/Machine/Step.lean ====
section
/-! DEFINITION. One step of the machine. -/

namespace Sys2Proof.Machine

/-- One step: the next host access, or the reset input, taken to its end (spec/20_memory.md R84). -/
def step (s : State) : Host.Outcome State Fault Refusal := stepBus s

/-- `s` about to issue the command word `w` (its bits above `nbits` clear): the next step runs it (log
entry 1). -/
def State.withFetchWord (s : State) (nbits w : Nat) : State :=
  s.withIssueOf (BitVec.ofNat 32 (w % 2 ^ nbits))

end Sys2Proof.Machine
end

