-- ==== Sys2Proof/Safety.lean ====
section
/-! DEFINITION. What counts as a safe run, in the terms the claims use: the invariant of every state a run
meets, the admission tables of spec/60_exceptions.md, and who may write what. -/

namespace Sys2Proof.Machine

/-! ### Outcomes -/

/-- The command answers a next state. -/
def Completes (r : Result) : Prop := ∃ t, r = .next t

/-- BUF[i..j) holds a value everywhere. -/
def State.readable (s : State) (i j : Nat) : Prop := ∃ data, s.readBuf i j = .ok data

/-- Every byte of BUF outside BUF[i..j) reads in `t` as it did in `s`. -/
def bufSameOutside (s t : State) (i j : Nat) : Prop :=
  ∀ a, (a < bufBase + i ∨ bufBase + j ≤ a) → t.mem.read a = s.mem.read a

/-! ### The invariant -/

/-- What the rules promise of every state: reset has it and every step keeps it. -/
structure State.Inv (s : State) : Prop where
  /-- BUF's bytes are in canonical form. -/
  mem_wf : s.mem.wf
  /-- Only offsets of BUF hold bytes (spec/20_memory.md R91). -/
  mem_in_buf : ∀ c ∈ s.mem, bufBase ≤ c.1 ∧ c.1 < bufBase + s.params.bufCap
  /-- STATUS.OK is set only with ERR = 0x00 (spec/60_exceptions.md R412). -/
  ok_no_error : s.ok = true → s.err = .none
  /-- UNKEYED binds nothing and keeps no secret (spec/10_state.md R51, R52, R54). -/
  unkeyed_unbound : s.session = .unkeyed →
    s.ctype = .none ∧ s.pkey = ByteArr.zero 24 ∧ s.degen = false
  /-- IV is zero beyond the block size (spec/10_state.md R43). -/
  iv_width : s.iv.val.drop s.bsize.toNat = zeros (16 - s.bsize.toNat)
  /-- PKEY is zero beyond the key size (spec/10_state.md R52). -/
  pkey_width : s.pkey.val.drop (keyBytes s.ctype) = zeros (24 - keyBytes s.ctype)
  /-- SKV = 1 only for the default wrapper's families, and then SK1 and SK2 hold the subkeys of the
  current key: stale subkeys can never be used (spec/10_state.md R36, R53; spec/70_reset_and_hazards.md
  R461). -/
  subkeys_fresh : s.skv = true → ∃ p, factory s.ctype = .default p ∧
    s.sk1 = fitBytes 16 (cmacK1 s.params.blockFns p s.pkey.val) ∧
    s.sk2 = fitBytes 16 (cmacK2 s.params.blockFns p s.pkey.val)
  /-- Without SKV both subkey registers are zero (spec/10_state.md R46, R47). -/
  subkeys_clear : s.skv = false → s.sk1 = ByteArr.zero 16 ∧ s.sk2 = ByteArr.zero 16
  /-- A session of the default wrapper has its subkeys (spec/45_dispatch.md R340). -/
  session_has_subkeys : s.session = .session → ∀ p, factory s.ctype = .default p → s.skv = true

/-! ### Admission (spec/60_exceptions.md R414, R415) -/

/-- The admission table by session state: "yes" is true, "STATE" is false (R414). -/
def admittedIn : Instr → Session → Bool
  | .setupKey _, _ | .release, _ => true
  | .crc16, _ | .crc32, _ | .crc32S _, _ | .padlenZero _, _ | .padlenCmac _, _ | .rotate _, _ => true
  | .initSession, v | .reinitSession, v => v != .unkeyed
  | .doCryptoEnc, v | .doCryptoDec, v | .doCryptoMac, v => v != .unkeyed
  | .cmacSubkeys, v | .computeCmac, v => v != .unkeyed
  | .prepareTxPlain, v | .prepareTxMac, v | .prepareTxCipher, v => v == .session
  | .confirmRxPlain, v | .confirmRxMac, v | .confirmRxCipher, v | .confirmRxCipherS _, v => v == .session

/-- The admission table by family, for a command that the session state admits: the error it raises, if
any (R415). -/
def familyError (i : Instr) (c : CipherType) : Option Err :=
  match i with
  | .doCryptoEnc | .doCryptoDec | .doCryptoMac => if c = .none then some .unsupported else none
  | .cmacSubkeys | .computeCmac => if c = .des3_3k ∨ c = .aes128 then none else some .unsupported
  | .prepareTxMac | .prepareTxCipher | .confirmRxMac | .confirmRxCipher | .confirmRxCipherS _ =>
    if c = .none then some .modeViolation else none
  | .setupKey _ | .initSession | .reinitSession | .prepareTxPlain | .confirmRxPlain | .crc16 | .crc32
  | .crc32S _ | .padlenZero _ | .padlenCmac _ | .rotate _ | .release => none

/-- The commands that read BUF[OFS..LEN) and check that range (spec/60_exceptions.md R411). -/
def checksRange : Instr → Bool
  | .initSession | .reinitSession | .doCryptoEnc | .doCryptoDec | .doCryptoMac | .computeCmac
  | .prepareTxMac | .prepareTxCipher | .crc16 | .crc32 | .crc32S _ | .rotate _ => true
  | .setupKey _ | .cmacSubkeys | .prepareTxPlain | .confirmRxPlain | .confirmRxMac | .confirmRxCipher
  | .confirmRxCipherS _ | .padlenZero _ | .padlenCmac _ | .release => false

/-- The commands that work on BUF[0..LEN) and check LEN alone (spec/45_dispatch.md R345). -/
def checksLen : Instr → Bool
  | .confirmRxMac | .confirmRxCipher | .confirmRxCipherS _ => true
  | .setupKey _ | .initSession | .reinitSession | .doCryptoEnc | .doCryptoDec | .doCryptoMac
  | .cmacSubkeys | .computeCmac | .prepareTxPlain | .prepareTxMac | .prepareTxCipher | .confirmRxPlain
  | .crc16 | .crc32 | .crc32S _ | .padlenZero _ | .padlenCmac _ | .rotate _ | .release => false

/-! ### Who writes what -/

/-- The session state after a command, from its outcome (spec/10_state.md R51). -/
def sessionAfter (i : Instr) (before : Session) (e : Err) : Session :=
  match i with
  | .setupKey _ => if e = .none then .keyed else .unkeyed
  | .initSession | .reinitSession => if e = .none then .session else before
  | .release => .unkeyed
  | .doCryptoEnc | .doCryptoDec | .doCryptoMac | .cmacSubkeys | .computeCmac | .prepareTxPlain
  | .prepareTxMac | .prepareTxCipher | .confirmRxPlain | .confirmRxMac | .confirmRxCipher
  | .confirmRxCipherS _ | .crc16 | .crc32 | .crc32S _ | .padlenZero _ | .padlenCmac _ | .rotate _ => before

/-- The commands that write RESULT (spec/10_state.md R42). -/
def writesResult : Instr → Bool
  | .crc16 | .crc32 | .crc32S _ | .padlenZero _ | .padlenCmac _ => true
  | .setupKey _ | .initSession | .reinitSession | .doCryptoEnc | .doCryptoDec | .doCryptoMac
  | .cmacSubkeys | .computeCmac | .prepareTxPlain | .prepareTxMac | .prepareTxCipher
  | .confirmRxPlain | .confirmRxMac | .confirmRxCipher | .confirmRxCipherS _ | .rotate _
  | .release => false

/-- The commands that rewrite LEN (spec/10_state.md R40). -/
def writesLen : Instr → Bool
  | .prepareTxMac | .prepareTxCipher | .confirmRxMac | .confirmRxCipher | .confirmRxCipherS _ => true
  | .setupKey _ | .initSession | .reinitSession | .doCryptoEnc | .doCryptoDec | .doCryptoMac
  | .cmacSubkeys | .computeCmac | .prepareTxPlain | .confirmRxPlain | .crc16 | .crc32 | .crc32S _
  | .padlenZero _ | .padlenCmac _ | .rotate _ | .release => false

/-- The commands that write IV (spec/10_state.md, section 5). -/
def writesIv : Instr → Bool
  | .setupKey _ | .release | .initSession | .reinitSession | .doCryptoEnc | .doCryptoDec | .doCryptoMac
  | .computeCmac | .prepareTxMac | .prepareTxCipher | .confirmRxMac | .confirmRxCipher
  | .confirmRxCipherS _ => true
  | .cmacSubkeys | .prepareTxPlain | .confirmRxPlain | .crc16 | .crc32 | .crc32S _
  | .padlenZero _ | .padlenCmac _ | .rotate _ => false

/-- The commands that write SK1, SK2 and SUBKEYS_VALID (spec/10_state.md R46, R53). -/
def writesSubkeys : Instr → Bool
  | .setupKey _ | .release | .initSession | .reinitSession | .cmacSubkeys => true
  | .doCryptoEnc | .doCryptoDec | .doCryptoMac | .computeCmac | .prepareTxPlain | .prepareTxMac
  | .prepareTxCipher | .confirmRxPlain | .confirmRxMac | .confirmRxCipher | .confirmRxCipherS _
  | .crc16 | .crc32 | .crc32S _ | .padlenZero _ | .padlenCmac _ | .rotate _ => false

/-- The commands that write BUF (spec/70_reset_and_hazards.md R464). -/
def writesBuf : Instr → Bool
  | .doCryptoEnc | .doCryptoDec | .doCryptoMac | .prepareTxMac | .prepareTxCipher | .confirmRxCipher
  | .confirmRxCipherS _ | .rotate _ => true
  | .setupKey _ | .initSession | .reinitSession | .cmacSubkeys | .computeCmac | .prepareTxPlain
  | .confirmRxPlain | .confirmRxMac | .crc16 | .crc32 | .crc32S _ | .padlenZero _ | .padlenCmac _
  | .release => false

end Sys2Proof.Machine
end

