-- ==== Sys2Proof/Certificates/Slice0/Obligations.lean ====
section
/-! DEFINITION. The statements for the provers.  Each docstring names the rule of spec/ it formalises. -/

open Sys2Proof Sys2Proof.Machine

/-! ## Encoding -/

/-- 30_encoding.md R120, R126, R127: every well-formed command survives encoding and decoding, as a word and
as the four bytes `ISSUE` writes. -/
def Obligations.DecodeOfEncodeIsTheCommand : Prop :=
  ∀ i : Instr, i.wellFormed = true →
    decodeWord (encodeWord i) = .ok i ∧ decode (encode i) = .ok (i, [])

/-- 30_encoding.md R120, R126: a word decodes to one command only, and every command has one word. -/
def Obligations.EncodeOfDecodeIsTheWord : Prop :=
  ∀ (w : BitVec 32) (i : Instr), decodeWord w = .ok i → i.wellFormed = true ∧ encodeWord i = w

/-- 30_encoding.md R120: "Rows do not overlap." -/
def Obligations.DecodeRowsDoNotOverlap : Prop :=
  decodeTable.Pairwise fun r q => ∀ w : BitVec 32, ¬ (r.selects w = true ∧ q.selects w = true)

/-- 30_encoding.md R120, R127: words of each family decode to the command they stand for. -/
def Obligations.SampleWordsDecode : Prop :=
  decodeWord 0x00040001 = .ok (.setupKey .aes128) ∧ decodeWord 0x00000104 = .ok .doCryptoDec ∧
  decodeWord 0x00000006 = .ok .computeCmac ∧ decodeWord 0x00900608 = .ok (.confirmRxCipherS 0x90) ∧
  decodeWord 0x0010010B = .ok (.padlenCmac 16) ∧ decodeWord 0x0000000D = .ok .release

/-- 30_encoding.md R123: an illegal word changes nothing but ERR and STATUS.OK (and CMD, which the issuing
write itself stores). -/
def Obligations.IllegalWordRaisesIllegal : Prop :=
  ∀ (s : State) (v : Byte) (rest : List HostEvent) (w : BitVec 32),
    s.pending = .write (s.params.base + 3) v :: rest → w = setByteOfWord s.cmd 3 v →
    ((fieldOpc w = 0x00 ∨ (0x0E : Byte) ≤ fieldOpc w) ∨
      (∀ r ∈ decodeTable, w &&& r.mask ≠ r.bits) ∨
      (w &&& 0xFF00FFFF = 0x00000001 ∧ (5 : Byte) ≤ fieldImm8 w) ∨
      ((w &&& 0xFF00FFFF = 0x0000000B ∨ w &&& 0xFF00FFFF = 0x0000010B) ∧ fieldImm8 w = 0)) →
    step s = .next { s with pending := rest, cmd := w, err := .illegal, ok := false }

/-! ## The step and the host interface -/

/-- 30_encoding.md R111 and 20_memory.md R83: the write to CMD byte 3 stores the byte and then runs the
command that the four stored bytes decode to. -/
def Obligations.StepRunsTheDecodedCommand : Prop :=
  ∀ (s : State) (v : Byte) (rest : List HostEvent) (i : Instr),
    s.pending = .write (s.params.base + 3) v :: rest →
    decodeWord (setByteOfWord s.cmd 3 v) = .ok i →
    step s = exec i { s with pending := rest, cmd := setByteOfWord s.cmd 3 v }

/-- 30_encoding.md R111, R128: after `ISSUE` has stored bytes 0 to 2, the write of byte 3 runs the command,
and CMD holds its word. -/
def Obligations.IssuedWordRuns : Prop :=
  ∀ (i : Instr) (s : State), i.wellFormed = true →
    step (s.withFetchWord 32 (encodeWord i).toNat) = exec i { s with cmd := encodeWord i }

/-- 60_exceptions.md R433 and 20_memory.md R80, R81: an idle block keeps its state (the model's choice of an
idle step, log entry 2); an access of another width is refused (log entry 6), and one outside the window at
BASE is no access to the block (log entry 7). -/
def Obligations.IdleRefusalAndWindow : Prop :=
  (∀ s : State, s.pending = [] → step s = .next s) ∧
  (∀ (s : State) (addr width : Nat) (rest : List HostEvent), s.pending = .wide addr width :: rest →
    step s = .refused (.wideAccess addr width)) ∧
  (∀ (s : State) (addr : Nat) (rest : List HostEvent),
    (addr < s.params.base ∨ s.params.base + 0x10000 ≤ addr) →
    (s.pending = .read addr :: rest ∨ ∃ v, s.pending = .write addr v :: rest) →
    step s = .fault (.outsideWindow addr))

/-- 10_state.md R34, R36, R39, R44, R49, R50 and 20_memory.md R82, R85: what a host read of each offset of
the window answers. -/
def Obligations.WindowReadsByOffset : Prop :=
  ∀ s : State,
    (∀ i < 4, s.windowRead (0x00 + i) = some (s.cmd.extractLsb' (8 * i) 8)) ∧
    (∀ v, s.windowRead 0x04 = some v → v.extractLsb' 5 3 = 0 ∧ v.getLsbD 4 = s.ok ∧
      v.getLsbD 3 = s.degen ∧ v.getLsbD 2 = s.skv ∧ v.extractLsb' 0 2 = s.session.code) ∧
    s.windowRead 0x05 = some s.err.code ∧ s.windowRead 0x06 = some s.ctype.code ∧
    s.windowRead 0x07 = some (if s.ctype = .none then 0 else if s.ctype = .aes128 then 16 else 8) ∧
    (∀ i < 2, s.windowRead (0x08 + i) = some (s.len.extractLsb' (8 * i) 8)) ∧
    (∀ i < 2, s.windowRead (0x0A + i) = some (s.ofs.extractLsb' (8 * i) 8)) ∧
    (∀ i < 4, s.windowRead (0x0C + i) = some (s.result.extractLsb' (8 * i) 8)) ∧
    (∀ i < 16, s.windowRead (0x10 + i) = s.iv.val[i]?) ∧
    (∀ i < 16, s.windowRead (0x20 + i) = s.sk1.val[i]?) ∧
    (∀ i < 16, s.windowRead (0x30 + i) = s.sk2.val[i]?) ∧
    (∀ a, 0x40 ≤ a ∧ a < 0x58 → s.windowRead a = some 0x00) ∧
    s.windowRead 0x58 = some s.keylen ∧
    (∀ a, 0x59 ≤ a ∧ a < 0x60 → s.windowRead a = some 0x00) ∧
    (∀ i < 8, s.windowRead (0x60 + i) = s.mac.val[i]?) ∧
    (∀ a, 0x68 ≤ a ∧ a < 0x100 → s.windowRead a = some 0x00) ∧
    (∀ i < s.params.bufCap, s.windowRead (0x100 + i) = s.mem.read (0x100 + i)) ∧
    (∀ a, 0x100 + s.params.bufCap ≤ a → s.windowRead a = some 0x00)

/-- 20_memory.md R82: a host read of the window gives the host the byte and has no side effect. -/
def Obligations.HostReadHasNoSideEffect : Prop :=
  ∀ (s : State) (a : Nat) (v : Byte) (rest : List HostEvent), a < 0x10000 →
    s.pending = .read (s.params.base + a) :: rest → s.windowRead a = some v →
    step s = .next { s with pending := rest, readLog := s.readLog ++ [v] }

/-- 20_memory.md R83, R85 and 10_state.md R50: a host write other than to offset 0x0003 changes the one byte
it addresses where that byte is writable, and nothing else the host can read. -/
def Obligations.HostWriteChangesOneByte : Prop :=
  ∀ (s : State) (a : Nat) (v : Byte) (rest : List HostEvent), a < 0x10000 → a ≠ 0x0003 →
    s.pending = .write (s.params.base + a) v :: rest →
    ∃ t, step s = .next t ∧ t.pending = rest ∧ t.readLog = s.readLog ∧
      (∀ x, t.windowRead x =
        if x = a ∧ (a < 0x04 ∨ (0x08 ≤ a ∧ a < 0x0C) ∨ a = 0x58 ∨
          (0x100 ≤ a ∧ a < 0x100 + s.params.bufCap)) then some v else s.windowRead x) ∧
      t.pkey = s.pkey ∧
      (∀ i < 24, t.key.val[i]? = if a = 0x40 + i then some v else s.key.val[i]?)

/-- 10_state.md R44, R52 and 60_exceptions.md R428: nothing the host reads depends on KEY or PKEY. -/
def Obligations.HostReadsRevealNoKey : Prop :=
  ∀ (s t : State) (addr : Nat) (rest : List HostEvent) (k pk : ByteArr 24),
    s.pending = .read addr :: rest → step s = .next t →
    step { s with key := k, pkey := pk } = .next { t with key := k, pkey := pk }

/-- 70_reset_and_hazards.md R450, R452: the reset input sets every register of the block to zero and leaves
no byte of BUF with a value; what the host still sends and has read is the host's (log entry 10). -/
def Obligations.ResetInputClearsTheBlock : Prop :=
  ∀ (s : State) (rest : List HostEvent), s.pending = .reset :: rest →
    ∃ t, step s = .next t ∧ t.params = s.params ∧ t.pending = rest ∧ t.readLog = s.readLog ∧
      t.cmd = 0 ∧ t.session = .unkeyed ∧ t.skv = false ∧ t.degen = false ∧ t.ok = false ∧
      t.err = .none ∧ t.ctype = .none ∧ t.len = 0 ∧ t.ofs = 0 ∧ t.result = 0 ∧ t.keylen = 0 ∧
      t.iv.val = zeros 16 ∧ t.sk1.val = zeros 16 ∧ t.sk2.val = zeros 16 ∧ t.key.val = zeros 24 ∧
      t.mac.val = zeros 8 ∧ t.pkey.val = zeros 24 ∧
      (∀ a < 0x100, t.windowRead a = some 0x00) ∧ (∀ a, t.mem.read a = none)

/-! ## Key setup, sessions and release -/

/-- 45_dispatch.md R331, R332: SETUP_KEY binds the type when KEYLEN is its key size, and otherwise loses the
binding with KEY_SETUP; the staging is cleared either way, in every state. -/
def Obligations.SetupKeyBindsOrUnbinds : Prop :=
  ∀ (c : CipherType) (s : State), ∃ t, exec (.setupKey c) s = .next t ∧
    t = { s with
      key := ByteArr.zero 24, keylen := 0, iv := ByteArr.zero 16, sk1 := ByteArr.zero 16,
      sk2 := ByteArr.zero 16, skv := false, pkey := t.pkey, ctype := t.ctype, degen := t.degen,
      session := t.session, err := t.err, ok := t.ok } ∧
    (s.keylen.toNat = keyBytes c →
      t.pkey.val = s.key.val.take (keyBytes c) ++ zeros (24 - keyBytes c) ∧ t.ctype = c ∧
      t.bsize = (if c = .none then 0 else if c = .aes128 then 16 else 8) ∧
      t.degen = s.degen ∧ t.session = .keyed ∧ t.err = .none ∧ t.ok = true) ∧
    (s.keylen.toNat ≠ keyBytes c →
      t.pkey.val = zeros 24 ∧ t.ctype = .none ∧ t.bsize = 0 ∧ t.degen = false ∧ t.session = .unkeyed ∧
      t.err = .keySetup ∧ t.ok = false)

/-- 45_dispatch.md R334, R335 and 42_cmac.md R242: INIT_SESSION zeroes IV, latches DEGENERATE and, for a
family of the default wrapper, derives the subkeys K1 = dbl(L), K2 = dbl(dbl(L)), L = E(zeros(b)). -/
def Obligations.InitSessionStartsSession : Prop :=
  ∀ s : State, s.session ≠ .unkeyed → s.n ≤ s.params.bufCap → s.o ≤ s.n →
    ∃ t, exec .initSession s = .next t ∧
      t = { s with
        iv := ByteArr.zero 16, session := .session, sk1 := t.sk1, sk2 := t.sk2, skv := t.skv,
        degen := decide (s.ctype = .des3_2k ∧ s.pkey.val.take 8 = slice s.pkey.val 8 16),
        err := .none, ok := true } ∧
      (∀ p b, factory s.ctype = .default p → b = blockSize p → t.skv = true ∧
        t.sk1.val = dbl b (blockEnc s.params.blockFns p s.pkey.val (zeros b)) ++ zeros (16 - b) ∧
        t.sk2.val = dbl b (t.sk1.val.take b) ++ zeros (16 - b)) ∧
      ((∀ p, factory s.ctype ≠ .default p) → t.skv = s.skv ∧ t.sk1 = s.sk1 ∧ t.sk2 = s.sk2)

/-- 45_dispatch.md R336: REINIT_SESSION does the same, and DEGENERATE stays. -/
def Obligations.ReinitSessionKeepsDegenerate : Prop :=
  ∀ s : State, s.session ≠ .unkeyed → s.n ≤ s.params.bufCap → s.o ≤ s.n →
    ∃ t, exec .reinitSession s = .next t ∧
      t = { s with
        iv := ByteArr.zero 16, session := .session, sk1 := t.sk1, sk2 := t.sk2, skv := t.skv,
        err := .none, ok := true } ∧
      (∀ p b, factory s.ctype = .default p → b = blockSize p → t.skv = true ∧
        t.sk1.val = dbl b (blockEnc s.params.blockFns p s.pkey.val (zeros b)) ++ zeros (16 - b) ∧
        t.sk2.val = dbl b (t.sk1.val.take b) ++ zeros (16 - b)) ∧
      ((∀ p, factory s.ctype ≠ .default p) → t.skv = s.skv ∧ t.sk1 = s.sk1 ∧ t.sk2 = s.sk2)

/-- 45_dispatch.md R361 and 70_reset_and_hazards.md R450: RELEASE succeeds in every state and leaves the reset
state, but for BUF, LEN, OFS, RESULT and CMD, which it keeps, and OK, which it sets. -/
def Obligations.ReleaseLeavesResetStateButHostData : Prop :=
  ∀ s : State, exec .release s = .next { State.resetWith s.params with
    mem := s.mem, len := s.len, ofs := s.ofs, result := s.result, cmd := s.cmd,
    pending := s.pending, readLog := s.readLog, ok := true }

/-- 10_state.md R51: the transitions of the session state, for every command and outcome. -/
def Obligations.SessionStateTransitions : Prop :=
  ∀ (i : Instr) (s t : State), exec i s = .next t → t.session = sessionAfter i s.session t.err

/-- 10_state.md R53 and 70_reset_and_hazards.md R461, with the rest of the invariant: the reset state has it. -/
def Obligations.ResetHasInvariant : Prop := State.reset.Inv

/-- 10_state.md R36, R43, R46, R52, R53, 20_memory.md R91 and 70_reset_and_hazards.md R461: every step, from
every state that has it, keeps the invariant; so subkeys of another key are never used. -/
def Obligations.StepKeepsInvariant : Prop :=
  ∀ s t : State, s.Inv → step s = .next t → t.Inv

/-! ## Block ciphers and CBC -/

/-- 40_primitive.md R151: D(K, E(K, x)) = x and E(K, D(K, x)) = x for every family, key and block, under both
choices of BLOCK_FNS. -/
def Obligations.BlockFunctionsAreInverse : Prop :=
  ∀ (fns : BlockFns) (p : Primitive) (K x : List Byte), K.length = 24 → x.length = blockSize p →
    blockDec fns p K (blockEnc fns p K x) = x ∧ blockEnc fns p K (blockDec fns p K x) = x

/-- 40_primitive.md R155: a degenerate 2K3DES key collapses to single DES. -/
def Obligations.DegenerateKeyCollapsesToDes : Prop :=
  ∀ K x : List Byte, K.length = 24 → slice K 0 8 = slice K 8 16 → x.length = 8 →
    blockEnc .standard .des3_2k K x = blockEnc .standard .des K x ∧
    blockDec .standard .des3_2k K x = blockDec .standard .des K x

/-- 41_block_ciphers.md R198: the least significant bit of each key byte has no effect. -/
def Obligations.DesIgnoresParityBits : Prop :=
  ∀ key key' x : BitVec 64, (∀ i < 64, i % 8 ≠ 7 → key.getMsbD i = key'.getMsbD i) →
    desEncBits key x = desEncBits key' x ∧ desDecBits key x = desDecBits key' x

/-- 40_primitive.md R156, encryption: C_i = E(P_i xor C_(i-1)) with C_0 = iv, block by block, and the new IV
is the last ciphertext block, or iv where there is none. -/
def Obligations.CbcEncryptionByBlocks : Prop :=
  ∀ (fns : BlockFns) (p : Primitive) (K iv P C v : List Byte) (b m : Nat),
    b = blockSize p → K.length = 24 → iv.length = b → P.length = m * b →
    cbcEnc fns p K iv P = (C, v) →
    C.length = m * b ∧
    (∀ i < m, slice C (i * b) ((i + 1) * b) = blockEnc fns p K (xorBytes (slice P (i * b) ((i + 1) * b))
      (if i = 0 then iv else slice C ((i - 1) * b) (i * b)))) ∧
    v = if m = 0 then iv else slice C ((m - 1) * b) (m * b)

/-- 40_primitive.md R156, decryption: P_i = D(C_i) xor C_(i-1), the chaining value being the previous
ciphertext block. -/
def Obligations.CbcDecryptionByBlocks : Prop :=
  ∀ (fns : BlockFns) (p : Primitive) (K iv C P v : List Byte) (b m : Nat),
    b = blockSize p → K.length = 24 → iv.length = b → C.length = m * b →
    cbcDec fns p K iv C = (P, v) →
    P.length = m * b ∧
    (∀ i < m, slice P (i * b) ((i + 1) * b) = xorBytes (blockDec fns p K (slice C (i * b) ((i + 1) * b)))
      (if i = 0 then iv else slice C ((i - 1) * b) (i * b))) ∧
    v = if m = 0 then iv else slice C ((m - 1) * b) (m * b)

/-- 40_primitive.md R158: CBC decryption undoes CBC encryption, and both leave the same IV. -/
def Obligations.CbcRoundTrip : Prop :=
  ∀ (fns : BlockFns) (p : Primitive) (K iv P C v : List Byte),
    K.length = 24 → iv.length = blockSize p → P.length % blockSize p = 0 →
    cbcEnc fns p K iv P = (C, v) → cbcDec fns p K iv C = (P, v)

/-- 40_primitive.md R160-R163: DO_CRYPTO transforms BUF[OFS..LEN) in place and leaves the chaining value in IV;
MAC is ENC. -/
def Obligations.DoCryptoTransformsTheRange : Prop :=
  ∀ (s : State) (p : Primitive) (data : List Byte), s.session ≠ .unkeyed →
    primitiveOf s.ctype = some p → s.n ≤ s.params.bufCap → s.o ≤ s.n →
    (s.n - s.o) % blockSize p = 0 → s.readBuf s.o s.n = .ok data →
    ∀ (i : Instr) (r : List Byte × List Byte),
      ((i = .doCryptoEnc ∨ i = .doCryptoMac) ∧
          r = cbcEnc s.params.blockFns p s.pkey.val (s.iv.val.take (blockSize p)) data ∨
        i = .doCryptoDec ∧
          r = cbcDec s.params.blockFns p s.pkey.val (s.iv.val.take (blockSize p)) data) →
      ∃ t, exec i s = .next t ∧
        t = { s with mem := t.mem, iv := t.iv, err := .none, ok := true } ∧
        t.readBuf s.o s.n = .ok r.1 ∧ bufSameOutside s t s.o s.n ∧
        t.iv.val = r.2 ++ zeros (16 - blockSize p)

/-! ## CMAC -/

/-- 42_cmac.md R240, R241: doubling is the shift of the bit string by one, with Rb where the bit shifted out
was 1. -/
def Obligations.DoublingIsShiftWithRb : Prop :=
  ∀ (b : Nat) (X : List Byte), (b = 8 ∨ b = 16) → X.length = b →
    (dbl b X).length = b ∧
    bitsOfBlock (8 * b) (dbl b X) = (bitsOfBlock (8 * b) X <<< 1) ^^^
      (if (bitsOfBlock (8 * b) X).msb then BitVec.ofNat (8 * b) (if b = 16 then 0x87 else 0x1B) else 0)

/-- 42_cmac.md R242, R243: CMAC_SUBKEYS derives both subkeys from the bound key and changes nothing else. -/
def Obligations.CmacSubkeysDerivesBoth : Prop :=
  ∀ (s : State) (p : Primitive) (b : Nat), s.session ≠ .unkeyed → factory s.ctype = .default p →
    b = blockSize p →
    ∃ t, exec .cmacSubkeys s = .next t ∧
      t = { s with sk1 := t.sk1, sk2 := t.sk2, skv := true, err := .none, ok := true } ∧
      t.sk1.val = dbl b (blockEnc s.params.blockFns p s.pkey.val (zeros b)) ++ zeros (16 - b) ∧
      t.sk2.val = dbl b (t.sk1.val.take b) ++ zeros (16 - b)

/-- 42_cmac.md R248: derivation depends on CTYPE and PKEY alone, whatever else the two states hold, whichever
of the three deriving commands runs. -/
def Obligations.SubkeysDependOnKeyAlone : Prop :=
  ∀ (i j : Instr) (s s' t t' : State) (p : Primitive),
    i ∈ [Instr.cmacSubkeys, .initSession, .reinitSession] →
    j ∈ [Instr.cmacSubkeys, .initSession, .reinitSession] →
    s.ctype = s'.ctype → s.pkey = s'.pkey → s.params.blockFns = s'.params.blockFns →
    factory s.ctype = .default p →
    exec i s = .next t → exec j s' = .next t' → t.ok = true → t'.ok = true →
    t.sk1 = t'.sk1 ∧ t.sk2 = t'.sk2

/-- 42_cmac.md R244 and 46_integrity_helpers.md R388: the formatted message has cmac_padlen bytes; only its
last block differs from the (padded) message, by K1 where no padding was needed and by K2 otherwise. -/
def Obligations.CmacFormatPadsAndMasks : Prop :=
  ∀ (b : Nat) (K1 K2 M P last : List Byte), (b = 8 ∨ b = 16) → K1.length = b → K2.length = b →
    ((M.length ≠ 0 ∧ M.length % b = 0 ∧ P = M ∧ last = K1) ∨
      ((M.length = 0 ∨ M.length % b ≠ 0) ∧ last = K2 ∧
        P = M ++ 0x80 :: zeros (cmacPadlen M.length b - M.length - 1))) →
    (cmacFormat b K1 K2 M).length = cmacPadlen M.length b ∧ P.length = cmacPadlen M.length b ∧
    (cmacFormat b K1 K2 M).take (P.length - b) = P.take (P.length - b) ∧
    (cmacFormat b K1 K2 M).drop (P.length - b) = xorBytes (P.drop (P.length - b)) last

/-- 42_cmac.md R245, R246: COMPUTE_CMAC puts the CMAC-8 in MAC and the final chaining block in IV, and changes
neither BUF nor the subkeys. -/
def Obligations.ComputeCmacWritesMacAndIv : Prop :=
  ∀ (s : State) (p : Primitive) (data v : List Byte) (b : Nat), s.session ≠ .unkeyed →
    factory s.ctype = .default p → b = blockSize p → s.skv = true →
    s.n ≤ s.params.bufCap → s.o ≤ s.n → s.readBuf s.o s.n = .ok data →
    v = (cbcEnc s.params.blockFns p s.pkey.val (s.iv.val.take b)
      (cmacFormat b (s.sk1.val.take b) (s.sk2.val.take b) data)).2 →
    ∃ t, exec .computeCmac s = .next t ∧
      t = { s with iv := t.iv, mac := t.mac, err := .none, ok := true } ∧
      t.iv.val = v ++ zeros (16 - b) ∧ t.mac.val = v.take 8

/-! ## Transmit -/

/-- 45_dispatch.md R341, R346: in a session PREPARE_TX.PLAIN and CONFIRM_RX.PLAIN succeed for every type and
change nothing; without one they raise STATE. -/
def Obligations.PlainModesArePassthrough : Prop :=
  ∀ (i : Instr) (s : State), (i = .prepareTxPlain ∨ i = .confirmRxPlain) →
    (s.session = .session → exec i s = .next { s with err := .none, ok := true }) ∧
    (s.session ≠ .session → exec i s = .next { s with err := .state, ok := false })

/-- 43_legacy_wrapper.md R271, R272: legacy PREPARE_TX.MAC appends the first four bytes of the CBC-MAC of the
zero-padded slice from a zero IV. -/
def Obligations.LegacyPrepareTxMacAppendsFourBytes : Prop :=
  ∀ (s : State) (p : Primitive) (x v : List Byte), s.session = .session → factory s.ctype = .legacy p →
    s.o ≤ s.n → s.n + 4 ≤ s.params.bufCap → s.readBuf s.o s.n = .ok x →
    v = (cbcEnc s.params.blockFns p s.pkey.val (zeros 8) (x ++ zeros ((8 - x.length % 8) % 8))).2 →
    ∃ t, exec .prepareTxMac s = .next t ∧
      t = { s with mem := t.mem, len := t.len, iv := t.iv, err := .none, ok := true } ∧
      t.len.toNat = s.n + 4 ∧ t.readBuf s.n (s.n + 4) = .ok (v.take 4) ∧
      bufSameOutside s t s.n (s.n + 4) ∧ t.iv.val = v ++ zeros 8

/-- 43_legacy_wrapper.md R273: legacy PREPARE_TX.CIPHER encrypts the slice, its CRC-16 and zero padding from a
zero IV, in place from OFS. -/
def Obligations.LegacyPrepareTxCipherEncryptsTail : Prop :=
  ∀ (s : State) (p : Primitive) (x t' : List Byte) (r : List Byte × List Byte),
    s.session = .session → factory s.ctype = .legacy p → s.o ≤ s.n → s.n ≤ s.params.bufCap →
    s.readBuf s.o s.n = .ok x →
    t' = x ++ le16 (crc16Of s.params x) ++ zeros ((8 - (x.length + 2) % 8) % 8) →
    s.o + t'.length ≤ s.params.bufCap → r = cbcEnc s.params.blockFns p s.pkey.val (zeros 8) t' →
    ∃ t, exec .prepareTxCipher s = .next t ∧
      t = { s with mem := t.mem, len := t.len, iv := t.iv, err := .none, ok := true } ∧
      t.len.toNat = s.o + t'.length ∧ t.readBuf s.o (s.o + t'.length) = .ok r.1 ∧
      bufSameOutside s t s.o (s.o + t'.length) ∧ t.iv.val = r.2 ++ zeros 8

/-- 44_default_wrapper.md R301: default PREPARE_TX.MAC appends the CMAC-8 of the whole buffer, computed from
IV. -/
def Obligations.DefaultPrepareTxMacAppendsCmac8 : Prop :=
  ∀ (s : State) (p : Primitive) (x v : List Byte) (b : Nat), s.session = .session →
    factory s.ctype = .default p → b = blockSize p → s.o ≤ s.n → s.n + 8 ≤ s.params.bufCap →
    s.readBuf 0 s.n = .ok x →
    v = (cbcEnc s.params.blockFns p s.pkey.val (s.iv.val.take b)
      (cmacFormat b (s.sk1.val.take b) (s.sk2.val.take b) x)).2 →
    ∃ t, exec .prepareTxMac s = .next t ∧
      t = { s with mem := t.mem, len := t.len, iv := t.iv, err := .none, ok := true } ∧
      t.len.toNat = s.n + 8 ∧ t.readBuf s.n (s.n + 8) = .ok (v.take 8) ∧
      bufSameOutside s t s.n (s.n + 8) ∧ t.iv.val = v ++ zeros (16 - b)

/-- 44_default_wrapper.md R302, R303: default PREPARE_TX.CIPHER encrypts from OFS the buffer with its CRC-32
and zero padding, from IV; IV then takes the CMAC of the ciphertext from the last ciphertext block. -/
def Obligations.DefaultPrepareTxCipherEncryptsAndChains : Prop :=
  ∀ (s : State) (p : Primitive) (x t' v : List Byte) (r : List Byte × List Byte) (b : Nat),
    s.session = .session → factory s.ctype = .default p → b = blockSize p → s.o ≤ s.n →
    s.n ≤ s.params.bufCap → s.readBuf 0 s.n = .ok x →
    t' = x ++ le32 (crc32Of s.params x) ++ zeros ((b - (x.length + 4 - s.o) % b) % b) →
    t'.length ≤ s.params.bufCap →
    r = cbcEnc s.params.blockFns p s.pkey.val (s.iv.val.take b) (t'.drop s.o) →
    v = (cbcEnc s.params.blockFns p s.pkey.val r.2
      (cmacFormat b (s.sk1.val.take b) (s.sk2.val.take b) r.1)).2 →
    ∃ t, exec .prepareTxCipher s = .next t ∧
      t = { s with mem := t.mem, len := t.len, iv := t.iv, err := .none, ok := true } ∧
      t.len.toNat = t'.length ∧ t.readBuf s.o t'.length = .ok r.1 ∧
      bufSameOutside s t s.o t'.length ∧ t.iv.val = v ++ zeros (16 - b)

/-- 44_default_wrapper.md R302, R303 (derived in 95_test_vectors.md, section 2.5): a ciphertext of one block
leaves IV = E(K1), whatever the message. -/
def Obligations.OneBlockCiphertextLeavesConstantIv : Prop :=
  ∀ (s t : State) (p : Primitive) (b : Nat), factory s.ctype = .default p → b = blockSize p →
    exec .prepareTxCipher s = .next t → t.ok = true → t.n = s.o + b →
    t.iv.val = blockEnc s.params.blockFns p s.pkey.val (s.sk1.val.take b) ++ zeros (16 - b)

/-! ## Receive -/

/-- 43_legacy_wrapper.md R274 and 44_default_wrapper.md R310: CONFIRM_RX.MAC compares the trailing k bytes with
the recomputed MAC; IV advances either way, LEN shrinks only on a match, and BUF never changes. -/
def Obligations.ConfirmRxMacComparesTrailer : Prop :=
  ∀ (s : State) (p : Primitive) (x v : List Byte) (b k : Nat), s.session = .session →
    s.n ≤ s.params.bufCap → s.readBuf 0 s.n = .ok x → b = blockSize p → k ≤ s.n →
    ((factory s.ctype = .legacy p ∧ k = 4 ∧
        v = (cbcEnc s.params.blockFns p s.pkey.val (zeros 8)
          (x.take (s.n - k) ++ zeros ((8 - (s.n - k) % 8) % 8))).2) ∨
      (factory s.ctype = .default p ∧ k = 8 ∧
        v = (cbcEnc s.params.blockFns p s.pkey.val (s.iv.val.take b)
          (cmacFormat b (s.sk1.val.take b) (s.sk2.val.take b) (x.take (s.n - k)))).2)) →
    ∃ t, exec .confirmRxMac s = .next t ∧
      t = { s with len := t.len, iv := t.iv, err := t.err, ok := t.ok } ∧
      t.iv.val = v ++ zeros (16 - b) ∧
      (v.take k = x.drop (s.n - k) → t.err = .none ∧ t.ok = true ∧ t.len.toNat = s.n - k) ∧
      (v.take k ≠ x.drop (s.n - k) → t.err = .integrity ∧ t.ok = false ∧ t.len = s.len)

/-- 43_legacy_wrapper.md R275, 44_default_wrapper.md R311, R312 and 45_dispatch.md R348, R349: CONFIRM_RX.CIPHER
and CONFIRM_RX.CIPHER.S decrypt the buffer in place and accept the shortest payload in the window whose
following bytes are its trailer and then zeros; BUF and IV are written either way. -/
def Obligations.ConfirmRxCipherTakesShortestPayload : Prop :=
  ∀ (s : State) (i : Instr) (p : Primitive) (c P v iv : List Byte) (b w lo : Nat)
    (trailer : List Byte → List Byte) (accepts : Nat → Prop), s.session = .session →
    s.n ≤ s.params.bufCap → s.readBuf 0 s.n = .ok c → b = blockSize p → b ≤ s.n → s.n % b = 0 →
    ((factory s.ctype = .legacy p ∧ (i = .confirmRxCipher ∨ ∃ q, i = .confirmRxCipherS q) ∧
        iv = zeros 8 ∧ w = 2 ∧ trailer = fun y => le16 (crc16Of s.params y)) ∨
      (factory s.ctype = .default p ∧ iv = s.iv.val.take b ∧ w = 4 ∧
        ((i = .confirmRxCipher ∧ trailer = fun y => le32 (crc32Of s.params y)) ∨
          ∃ q, i = .confirmRxCipherS q ∧ trailer = fun y =>
            match s.params.rxStatusSeed with
            | .seedPrefix => le32 (crc32Status s.params q y)
            | .seedSuffix => le32 (crc32Of s.params (y ++ [q]))
            | .seedIgnore => le32 (crc32Of s.params y)))) →
    cbcDec s.params.blockFns p s.pkey.val iv c = (P, v) →
    lo = s.n - w - (b - 1) →
    (∀ L, accepts L ↔ lo ≤ L ∧ L + w ≤ s.n ∧ slice P L (L + w) = trailer (P.take L) ∧
      P.drop (L + w) = zeros (s.n - L - w)) →
    ∃ t, exec i s = .next t ∧
      t = { s with mem := t.mem, len := t.len, iv := t.iv, err := t.err, ok := t.ok } ∧
      t.readBuf 0 s.n = .ok P ∧ bufSameOutside s t 0 s.n ∧ t.iv.val = v ++ zeros (16 - b) ∧
      (∀ L, accepts L → (∀ M < L, ¬ accepts M) →
        t.err = .none ∧ t.ok = true ∧ t.len.toNat = L) ∧
      ((∀ L, ¬ accepts L) → t.err = .integrity ∧ t.ok = false ∧ t.len = s.len)

/-- 43_legacy_wrapper.md R274, R275 and 44_default_wrapper.md R310, R311: a received length that cannot hold a
trailer, or is not whole blocks, is an INTEGRITY error that changes nothing else. -/
def Obligations.MalformedReceivedLengthIsIntegrity : Prop :=
  ∀ (s : State) (p : Primitive) (i : Instr), s.session = .session → s.n ≤ s.params.bufCap →
    ((factory s.ctype = .legacy p ∧ i = .confirmRxMac ∧ s.n < 4) ∨
      (factory s.ctype = .default p ∧ i = .confirmRxMac ∧ s.n < 8) ∨
      ((factory s.ctype = .legacy p ∨ factory s.ctype = .default p) ∧
        (i = .confirmRxCipher ∨ ∃ q, i = .confirmRxCipherS q) ∧
        (s.n < blockSize p ∨ s.n % blockSize p ≠ 0))) →
    exec i s = .next { s with err := .integrity, ok := false }

/-! ## Round trips -/

/-- 43_legacy_wrapper.md R277 and 45_dispatch.md R362, legacy wrapper, mac mode: a receiver with the same type
and key accepts what the sender prepared and gets the message back. -/
def Obligations.LegacyMacRoundTrip : Prop :=
  ∀ (a a' r : State) (p : Primitive) (m w : List Byte), factory a.ctype = .legacy p → a.o = 0 →
    a.readBuf 0 a.n = .ok m → exec .prepareTxMac a = .next a' → a'.ok = true →
    a'.readBuf 0 a'.n = .ok w →
    r.session = .session → r.params = a.params → r.ctype = a.ctype → r.pkey = a.pkey →
    r.len = a'.len → r.readBuf 0 r.n = .ok w →
    ∃ t, exec .confirmRxMac r = .next t ∧ t.ok = true ∧ t.len = a.len ∧ t.readBuf 0 t.n = .ok m

/-- 43_legacy_wrapper.md R277 and 45_dispatch.md R362, legacy wrapper, cipher mode, at the default
CRC16_XOROUT. -/
def Obligations.LegacyCipherRoundTrip : Prop :=
  ∀ (a a' r : State) (p : Primitive) (m w : List Byte), factory a.ctype = .legacy p → a.o = 0 →
    a.params.crc16XorOut = 0xFFFF →
    a.readBuf 0 a.n = .ok m → exec .prepareTxCipher a = .next a' → a'.ok = true →
    a'.readBuf 0 a'.n = .ok w →
    r.session = .session → r.params = a.params → r.ctype = a.ctype → r.pkey = a.pkey →
    r.len = a'.len → r.readBuf 0 r.n = .ok w →
    ∃ t, exec .confirmRxCipher r = .next t ∧ t.ok = true ∧ t.len = a.len ∧ t.readBuf 0 t.n = .ok m

/-- 44_default_wrapper.md R314 and 45_dispatch.md R362, default wrapper, mac mode: the receiver accepts, gets
the message back, and both blocks hold equal IVs. -/
def Obligations.DefaultMacRoundTrip : Prop :=
  ∀ (a a' r : State) (p : Primitive) (m w : List Byte), factory a.ctype = .default p → a.o = 0 →
    a.readBuf 0 a.n = .ok m → exec .prepareTxMac a = .next a' → a'.ok = true →
    a'.readBuf 0 a'.n = .ok w →
    r.session = .session → r.params = a.params → r.ctype = a.ctype → r.pkey = a.pkey →
    r.sk1 = a.sk1 → r.sk2 = a.sk2 → r.iv = a.iv → r.len = a'.len → r.readBuf 0 r.n = .ok w →
    ∃ t, exec .confirmRxMac r = .next t ∧ t.ok = true ∧ t.len = a.len ∧ t.readBuf 0 t.n = .ok m ∧
      t.iv = a'.iv

/-- 44_default_wrapper.md R314 and 45_dispatch.md R362, default wrapper, cipher mode without a status byte, at
the default CRC32_XOROUT. -/
def Obligations.DefaultCipherRoundTrip : Prop :=
  ∀ (a a' r : State) (p : Primitive) (m w : List Byte), factory a.ctype = .default p → a.o = 0 →
    a.params.crc32XorOut = 0xFFFFFFFF →
    a.readBuf 0 a.n = .ok m → exec .prepareTxCipher a = .next a' → a'.ok = true →
    a'.readBuf 0 a'.n = .ok w →
    r.session = .session → r.params = a.params → r.ctype = a.ctype → r.pkey = a.pkey →
    r.sk1 = a.sk1 → r.sk2 = a.sk2 → r.iv = a.iv → r.len = a'.len → r.readBuf 0 r.n = .ok w →
    ∃ t, exec .confirmRxCipher r = .next t ∧ t.ok = true ∧ t.len = a.len ∧ t.readBuf 0 t.n = .ok m

/-! ## Integrity helpers -/

/-- 46_integrity_helpers.md R384-R386: the CRC commands put the CRC of BUF[OFS..LEN) in RESULT and change
nothing else; CRC32.S s is the CRC-32 of s followed by the range. -/
def Obligations.CrcCommandsWriteResult : Prop :=
  ∀ (s : State) (x : List Byte) (q : Byte), s.n ≤ s.params.bufCap → s.o ≤ s.n →
    s.readBuf s.o s.n = .ok x →
    exec .crc16 s = .next { s with
      result := (crc16Raw 0x6363 x ^^^ s.params.crc16XorOut).setWidth 32, err := .none, ok := true } ∧
    exec .crc32 s = .next { s with
      result := crc32Raw 0xFFFFFFFF x ^^^ s.params.crc32XorOut, err := .none, ok := true } ∧
    exec (.crc32S q) s = .next { s with
      result := crc32Raw 0xFFFFFFFF (q :: x) ^^^ s.params.crc32XorOut, err := .none, ok := true }

/-- 46_integrity_helpers.md R380, R381: a message followed by its own CRC register, least significant byte first,
leaves 0 in the register (the reason for 90_conflicts.md C14). -/
def Obligations.CrcOfMessageAndRegisterIsZero : Prop :=
  ∀ x : List Byte,
    crc16Raw (crc16Raw 0x6363 x) (le16 (crc16Raw 0x6363 x)) = 0 ∧
    crc32Raw (crc32Raw 0xFFFFFFFF x) (le32 (crc32Raw 0xFFFFFFFF x)) = 0

/-- 46_integrity_helpers.md R387-R390: PADLEN puts the least multiple of b that holds LEN bytes in RESULT, b
itself for an empty message of the CMAC form, in every state and for every LEN. -/
def Obligations.PadlenIsLeastMultiple : Prop :=
  ∀ (s : State) (b : Byte), b ≠ 0 →
    (∃ t, exec (.padlenZero b) s = .next t ∧
      t = { s with result := t.result, err := .none, ok := true } ∧
      b.toNat ∣ t.result.toNat ∧ s.n ≤ t.result.toNat ∧ t.result.toNat < s.n + b.toNat) ∧
    (∃ t, exec (.padlenCmac b) s = .next t ∧
      t = { s with result := t.result, err := .none, ok := true } ∧
      (s.n = 0 → t.result.toNat = b.toNat) ∧
      (s.n ≠ 0 → b.toNat ∣ t.result.toNat ∧ s.n ≤ t.result.toNat ∧ t.result.toNat < s.n + b.toNat))

/-- 46_integrity_helpers.md R391: ROTATE moves byte (j + k) mod l of the range to place j; an empty range
changes nothing. -/
def Obligations.RotateMovesBytesLeft : Prop :=
  ∀ (s : State) (k : Byte) (x : List Byte) (l : Nat), s.n ≤ s.params.bufCap → s.o ≤ s.n →
    l = s.n - s.o → s.readBuf s.o s.n = .ok x →
    ∃ t, exec (.rotate k) s = .next t ∧ t = { s with mem := t.mem, err := .none, ok := true } ∧
      bufSameOutside s t s.o s.n ∧
      ∀ j < l, t.mem.read (0x100 + s.o + j) = x[(j + k.toNat) % l]?

/-! ## Errors, admission and frames -/

/-- 60_exceptions.md R410, R412: after every issued word OK = 1 exactly when ERR = 0x00, and the outcome does
not depend on the ERR and OK of the command before. -/
def Obligations.EveryIssueWritesErrAndOk : Prop :=
  ∀ s : State,
    (∀ t, issue s = .next t → (t.ok = true ↔ t.err = .none)) ∧
    (∀ (e : Err) (o : Bool), issue { s with err := e, ok := o } = issue s)

/-- 60_exceptions.md R414: a command that the session state does not admit raises STATE and changes nothing
else; an admitted one raises STATE only as COMPUTE_CMAC without subkeys. -/
def Obligations.AdmissionBySessionState : Prop :=
  ∀ (i : Instr) (s : State),
    (admittedIn i s.session = false → exec i s = .next { s with err := .state, ok := false }) ∧
    (∀ t, admittedIn i s.session = true → exec i s = .next t → t.err = .state →
      i = .computeCmac ∧ s.skv = false)

/-- 60_exceptions.md R415, R420: for an admitted command the family decides next, before any length is
checked; UNSUPPORTED and MODE_VIOLATION come from nowhere else. -/
def Obligations.AdmissionByFamily : Prop :=
  ∀ (i : Instr) (s : State), admittedIn i s.session = true →
    (∀ e, familyError i s.ctype = some e → exec i s = .next { s with err := e, ok := false }) ∧
    (∀ t, exec i s = .next t → (t.err = .unsupported ∨ t.err = .modeViolation) →
      familyError i s.ctype = some t.err)

/-- 10_state.md R33 and 60_exceptions.md R411, R420: a command past admission refuses a bad range, and a
result that would not fit, with LENGTH, and changes nothing else. -/
def Obligations.LengthErrorsChangeNothing : Prop :=
  ∀ (i : Instr) (s : State), admittedIn i s.session = true → familyError i s.ctype = none →
    (i = .computeCmac → s.skv = true) →
    ((checksRange i = true ∧ (s.params.bufCap < s.n ∨ s.n < s.o)) ∨
      (checksLen i = true ∧ s.params.bufCap < s.n) ∨
      (∃ p, primitiveOf s.ctype = some p ∧ i ∈ [Instr.doCryptoEnc, .doCryptoDec, .doCryptoMac] ∧
        (s.n - s.o) % blockSize p ≠ 0) ∨
      (∃ p, i = .prepareTxMac ∧ ((factory s.ctype = .legacy p ∧ s.params.bufCap < s.n + 4) ∨
        (factory s.ctype = .default p ∧ s.params.bufCap < s.n + 8))) ∨
      (∃ p, i = .prepareTxCipher ∧ s.o ≤ s.n ∧
        ((factory s.ctype = .legacy p ∧
            s.params.bufCap < s.n + 2 + (8 - (s.n - s.o + 2) % 8) % 8) ∨
          (factory s.ctype = .default p ∧ s.params.bufCap <
            s.n + 4 + (blockSize p - (s.n + 4 - s.o) % blockSize p) % blockSize p)))) →
    exec i s = .next { s with err := .length, ok := false }

/-- 60_exceptions.md R413: an error changes nothing but ERR and OK, except a failed SETUP_KEY, a MAC mismatch
(IV) and a CRC mismatch (BUF and IV); an INTEGRITY failure never changes LEN. -/
def Obligations.ErrorsChangeNothingElse : Prop :=
  ∀ (i : Instr) (s t : State), exec i s = .next t → t.err ≠ .none →
    t = { s with err := t.err, ok := false } ∨
    (∃ c, i = .setupKey c ∧ t.err = .keySetup) ∨
    (i = .confirmRxMac ∧ t.err = .integrity ∧ t = { s with iv := t.iv, err := .integrity, ok := false }) ∨
    ((i = .confirmRxCipher ∨ ∃ q, i = .confirmRxCipherS q) ∧ t.err = .integrity ∧
      t = { s with mem := t.mem, iv := t.iv, err := .integrity, ok := false })

/-- 60_exceptions.md R411: which commands can end in KEY_SETUP, INTEGRITY and ILLEGAL. -/
def Obligations.ErrorsComeFromTheirCommands : Prop :=
  ∀ (i : Instr) (s t : State), i.wellFormed = true → exec i s = .next t →
    t.err ≠ .illegal ∧ (t.err = .keySetup → ∃ c, i = .setupKey c) ∧
    (t.err = .integrity → i = .confirmRxMac ∨ i = .confirmRxCipher ∨ ∃ q, i = .confirmRxCipherS q) ∧
    (t.err = .length → checksRange i = true ∨ checksLen i = true)

/-- 10_state.md R54: no rule reads DEGENERATE: every command does the same whatever the flag holds. -/
def Obligations.DegenerateFlagIsNeverRead : Prop :=
  ∀ (i : Instr) (s t : State) (d : Bool), exec i s = .next t →
    ∃ d', exec i { s with degen := d } = .next { t with degen := d' }

/-- 10_state.md R35, R38, R40-R48, R52-R55, R51: who may write each register; every other command leaves it as it
is, and no command writes OFS, CMD, the parameters or the host's side. -/
def Obligations.RegistersHaveTheirWriters : Prop :=
  ∀ (i : Instr) (s t : State), exec i s = .next t →
    t.params = s.params ∧ t.cmd = s.cmd ∧ t.ofs = s.ofs ∧ t.pending = s.pending ∧
    t.readLog = s.readLog ∧
    (writesResult i = false → t.result = s.result) ∧
    (writesLen i = false → t.len = s.len) ∧
    (writesIv i = false → t.iv = s.iv) ∧
    (writesSubkeys i = false → t.sk1 = s.sk1 ∧ t.sk2 = s.sk2 ∧ t.skv = s.skv) ∧
    (i ≠ .computeCmac ∧ i ≠ .release → t.mac = s.mac) ∧
    (i ≠ .release ∧ (∀ c, i ≠ .setupKey c) → t.key = s.key ∧ t.keylen = s.keylen ∧
      t.pkey = s.pkey ∧ t.ctype = s.ctype) ∧
    (i ≠ .release ∧ i ≠ .initSession ∧ (∀ c, i ≠ .setupKey c) → t.degen = s.degen)

/-- 70_reset_and_hazards.md R464, 10_state.md R33 and 20_memory.md R91: the bytes of BUF a command leaves alone:
all of them for a command that stores nothing, all outside the stored range for one that stores, and every
byte at BUF_CAP and beyond for every command. -/
def Obligations.BufBytesOutsideTheStoreAreKept : Prop :=
  ∀ (i : Instr) (s t : State), exec i s = .next t →
    (writesBuf i = false → t.mem = s.mem) ∧
    ((i = .doCryptoEnc ∨ i = .doCryptoDec ∨ i = .doCryptoMac ∨ ∃ k, i = .rotate k) →
      bufSameOutside s t s.o s.n) ∧
    (∀ p, i = .prepareTxMac → factory s.ctype = .legacy p → bufSameOutside s t s.n (s.n + 4)) ∧
    (∀ p, i = .prepareTxMac → factory s.ctype = .default p → bufSameOutside s t s.n (s.n + 8)) ∧
    (∀ p, i = .prepareTxCipher → factory s.ctype = .legacy p →
      bufSameOutside s t s.o (s.o + padlen (s.n - s.o + 2) 8)) ∧
    (∀ p, i = .prepareTxCipher → factory s.ctype = .default p →
      bufSameOutside s t s.o (s.n + 4 + defaultPad (blockSize p) s.o (s.n + 4))) ∧
    ((i = .confirmRxCipher ∨ ∃ q, i = .confirmRxCipherS q) → bufSameOutside s t 0 s.n) ∧
    bufSameOutside s t 0 s.params.bufCap

/-- 60_exceptions.md R410 and 70_reset_and_hazards.md R452: a command never refuses, and faults only on a byte
of BUF[0..LEN) that nothing has written since reset (log entry 4). -/
def Obligations.CommandsFaultOnlyOnUnwrittenBuf : Prop :=
  ∀ (i : Instr) (s : State),
    (∀ r, exec i s ≠ .refused r) ∧
    (∀ f, exec i s = .fault f → ∃ a, f = .unwrittenBuf (0x100 + a) ∧ a < s.n ∧
      s.n ≤ s.params.bufCap ∧ s.mem.read (0x100 + a) = none)

/-- 60_exceptions.md R410: every command ends in one of its two outcomes, in every state whose BUF[0..LEN) has
been written. -/
def Obligations.EveryCommandCompletes : Prop :=
  ∀ (i : Instr) (s : State), (s.n ≤ s.params.bufCap → s.readable 0 s.n) → Completes (exec i s)
end

