-- ==== Sys2Proof/Laws/State.lean ====
section
/-! SUPPORT. The fields of an updated state: one lemma per field and update, so that no proof unfolds a
record update. -/

namespace Sys2Proof.Machine

/-! ### writeBuf -/

@[simp] theorem writeBuf_params (s : State) (i : Nat) (v : List Byte) :
    (s.writeBuf i v).params = s.params := rfl
@[simp] theorem writeBuf_cmd (s : State) (i : Nat) (v : List Byte) :
    (s.writeBuf i v).cmd = s.cmd := rfl
@[simp] theorem writeBuf_session (s : State) (i : Nat) (v : List Byte) :
    (s.writeBuf i v).session = s.session := rfl
@[simp] theorem writeBuf_skv (s : State) (i : Nat) (v : List Byte) :
    (s.writeBuf i v).skv = s.skv := rfl
@[simp] theorem writeBuf_degen (s : State) (i : Nat) (v : List Byte) :
    (s.writeBuf i v).degen = s.degen := rfl
@[simp] theorem writeBuf_ok (s : State) (i : Nat) (v : List Byte) :
    (s.writeBuf i v).ok = s.ok := rfl
@[simp] theorem writeBuf_err (s : State) (i : Nat) (v : List Byte) :
    (s.writeBuf i v).err = s.err := rfl
@[simp] theorem writeBuf_ctype (s : State) (i : Nat) (v : List Byte) :
    (s.writeBuf i v).ctype = s.ctype := rfl
@[simp] theorem writeBuf_len (s : State) (i : Nat) (v : List Byte) :
    (s.writeBuf i v).len = s.len := rfl
@[simp] theorem writeBuf_ofs (s : State) (i : Nat) (v : List Byte) :
    (s.writeBuf i v).ofs = s.ofs := rfl
@[simp] theorem writeBuf_result (s : State) (i : Nat) (v : List Byte) :
    (s.writeBuf i v).result = s.result := rfl
@[simp] theorem writeBuf_iv (s : State) (i : Nat) (v : List Byte) :
    (s.writeBuf i v).iv = s.iv := rfl
@[simp] theorem writeBuf_sk1 (s : State) (i : Nat) (v : List Byte) :
    (s.writeBuf i v).sk1 = s.sk1 := rfl
@[simp] theorem writeBuf_sk2 (s : State) (i : Nat) (v : List Byte) :
    (s.writeBuf i v).sk2 = s.sk2 := rfl
@[simp] theorem writeBuf_key (s : State) (i : Nat) (v : List Byte) :
    (s.writeBuf i v).key = s.key := rfl
@[simp] theorem writeBuf_keylen (s : State) (i : Nat) (v : List Byte) :
    (s.writeBuf i v).keylen = s.keylen := rfl
@[simp] theorem writeBuf_mac (s : State) (i : Nat) (v : List Byte) :
    (s.writeBuf i v).mac = s.mac := rfl
@[simp] theorem writeBuf_pkey (s : State) (i : Nat) (v : List Byte) :
    (s.writeBuf i v).pkey = s.pkey := rfl
@[simp] theorem writeBuf_mem (s : State) (i : Nat) (v : List Byte) :
    (s.writeBuf i v).mem = s.mem.writeRange (bufBase + i) v := rfl
@[simp] theorem writeBuf_pending (s : State) (i : Nat) (v : List Byte) :
    (s.writeBuf i v).pending = s.pending := rfl
@[simp] theorem writeBuf_readLog (s : State) (i : Nat) (v : List Byte) :
    (s.writeBuf i v).readLog = s.readLog := rfl

/-! ### setIv -/

@[simp] theorem setIv_params (s : State) (v : List Byte) :
    (s.setIv v).params = s.params := rfl
@[simp] theorem setIv_cmd (s : State) (v : List Byte) :
    (s.setIv v).cmd = s.cmd := rfl
@[simp] theorem setIv_session (s : State) (v : List Byte) :
    (s.setIv v).session = s.session := rfl
@[simp] theorem setIv_skv (s : State) (v : List Byte) :
    (s.setIv v).skv = s.skv := rfl
@[simp] theorem setIv_degen (s : State) (v : List Byte) :
    (s.setIv v).degen = s.degen := rfl
@[simp] theorem setIv_ok (s : State) (v : List Byte) :
    (s.setIv v).ok = s.ok := rfl
@[simp] theorem setIv_err (s : State) (v : List Byte) :
    (s.setIv v).err = s.err := rfl
@[simp] theorem setIv_ctype (s : State) (v : List Byte) :
    (s.setIv v).ctype = s.ctype := rfl
@[simp] theorem setIv_len (s : State) (v : List Byte) :
    (s.setIv v).len = s.len := rfl
@[simp] theorem setIv_ofs (s : State) (v : List Byte) :
    (s.setIv v).ofs = s.ofs := rfl
@[simp] theorem setIv_result (s : State) (v : List Byte) :
    (s.setIv v).result = s.result := rfl
@[simp] theorem setIv_iv (s : State) (v : List Byte) :
    (s.setIv v).iv = fitBytes 16 v := rfl
@[simp] theorem setIv_sk1 (s : State) (v : List Byte) :
    (s.setIv v).sk1 = s.sk1 := rfl
@[simp] theorem setIv_sk2 (s : State) (v : List Byte) :
    (s.setIv v).sk2 = s.sk2 := rfl
@[simp] theorem setIv_key (s : State) (v : List Byte) :
    (s.setIv v).key = s.key := rfl
@[simp] theorem setIv_keylen (s : State) (v : List Byte) :
    (s.setIv v).keylen = s.keylen := rfl
@[simp] theorem setIv_mac (s : State) (v : List Byte) :
    (s.setIv v).mac = s.mac := rfl
@[simp] theorem setIv_pkey (s : State) (v : List Byte) :
    (s.setIv v).pkey = s.pkey := rfl
@[simp] theorem setIv_mem (s : State) (v : List Byte) :
    (s.setIv v).mem = s.mem := rfl
@[simp] theorem setIv_pending (s : State) (v : List Byte) :
    (s.setIv v).pending = s.pending := rfl
@[simp] theorem setIv_readLog (s : State) (v : List Byte) :
    (s.setIv v).readLog = s.readLog := rfl

/-! ### setLen -/

@[simp] theorem setLen_params (s : State) (n : Nat) :
    (s.setLen n).params = s.params := rfl
@[simp] theorem setLen_cmd (s : State) (n : Nat) :
    (s.setLen n).cmd = s.cmd := rfl
@[simp] theorem setLen_session (s : State) (n : Nat) :
    (s.setLen n).session = s.session := rfl
@[simp] theorem setLen_skv (s : State) (n : Nat) :
    (s.setLen n).skv = s.skv := rfl
@[simp] theorem setLen_degen (s : State) (n : Nat) :
    (s.setLen n).degen = s.degen := rfl
@[simp] theorem setLen_ok (s : State) (n : Nat) :
    (s.setLen n).ok = s.ok := rfl
@[simp] theorem setLen_err (s : State) (n : Nat) :
    (s.setLen n).err = s.err := rfl
@[simp] theorem setLen_ctype (s : State) (n : Nat) :
    (s.setLen n).ctype = s.ctype := rfl
@[simp] theorem setLen_len (s : State) (n : Nat) :
    (s.setLen n).len = BitVec.ofNat 16 n := rfl
@[simp] theorem setLen_ofs (s : State) (n : Nat) :
    (s.setLen n).ofs = s.ofs := rfl
@[simp] theorem setLen_result (s : State) (n : Nat) :
    (s.setLen n).result = s.result := rfl
@[simp] theorem setLen_iv (s : State) (n : Nat) :
    (s.setLen n).iv = s.iv := rfl
@[simp] theorem setLen_sk1 (s : State) (n : Nat) :
    (s.setLen n).sk1 = s.sk1 := rfl
@[simp] theorem setLen_sk2 (s : State) (n : Nat) :
    (s.setLen n).sk2 = s.sk2 := rfl
@[simp] theorem setLen_key (s : State) (n : Nat) :
    (s.setLen n).key = s.key := rfl
@[simp] theorem setLen_keylen (s : State) (n : Nat) :
    (s.setLen n).keylen = s.keylen := rfl
@[simp] theorem setLen_mac (s : State) (n : Nat) :
    (s.setLen n).mac = s.mac := rfl
@[simp] theorem setLen_pkey (s : State) (n : Nat) :
    (s.setLen n).pkey = s.pkey := rfl
@[simp] theorem setLen_mem (s : State) (n : Nat) :
    (s.setLen n).mem = s.mem := rfl
@[simp] theorem setLen_pending (s : State) (n : Nat) :
    (s.setLen n).pending = s.pending := rfl
@[simp] theorem setLen_readLog (s : State) (n : Nat) :
    (s.setLen n).readLog = s.readLog := rfl

/-! ### unbind -/

@[simp] theorem unbind_params (s : State) :
    (s.unbind).params = s.params := rfl
@[simp] theorem unbind_cmd (s : State) :
    (s.unbind).cmd = s.cmd := rfl
@[simp] theorem unbind_session (s : State) :
    (s.unbind).session = Session.unkeyed := rfl
@[simp] theorem unbind_skv (s : State) :
    (s.unbind).skv = false := rfl
@[simp] theorem unbind_degen (s : State) :
    (s.unbind).degen = false := rfl
@[simp] theorem unbind_ok (s : State) :
    (s.unbind).ok = s.ok := rfl
@[simp] theorem unbind_err (s : State) :
    (s.unbind).err = s.err := rfl
@[simp] theorem unbind_ctype (s : State) :
    (s.unbind).ctype = CipherType.none := rfl
@[simp] theorem unbind_len (s : State) :
    (s.unbind).len = s.len := rfl
@[simp] theorem unbind_ofs (s : State) :
    (s.unbind).ofs = s.ofs := rfl
@[simp] theorem unbind_result (s : State) :
    (s.unbind).result = s.result := rfl
@[simp] theorem unbind_iv (s : State) :
    (s.unbind).iv = ByteArr.zero 16 := rfl
@[simp] theorem unbind_sk1 (s : State) :
    (s.unbind).sk1 = ByteArr.zero 16 := rfl
@[simp] theorem unbind_sk2 (s : State) :
    (s.unbind).sk2 = ByteArr.zero 16 := rfl
@[simp] theorem unbind_key (s : State) :
    (s.unbind).key = s.key := rfl
@[simp] theorem unbind_keylen (s : State) :
    (s.unbind).keylen = s.keylen := rfl
@[simp] theorem unbind_mac (s : State) :
    (s.unbind).mac = s.mac := rfl
@[simp] theorem unbind_pkey (s : State) :
    (s.unbind).pkey = ByteArr.zero 24 := rfl
@[simp] theorem unbind_mem (s : State) :
    (s.unbind).mem = s.mem := rfl
@[simp] theorem unbind_pending (s : State) :
    (s.unbind).pending = s.pending := rfl
@[simp] theorem unbind_readLog (s : State) :
    (s.unbind).readLog = s.readLog := rfl

/-! ### clearStaging -/

@[simp] theorem clearStaging_params (s : State) :
    (s.clearStaging).params = s.params := rfl
@[simp] theorem clearStaging_cmd (s : State) :
    (s.clearStaging).cmd = s.cmd := rfl
@[simp] theorem clearStaging_session (s : State) :
    (s.clearStaging).session = s.session := rfl
@[simp] theorem clearStaging_skv (s : State) :
    (s.clearStaging).skv = s.skv := rfl
@[simp] theorem clearStaging_degen (s : State) :
    (s.clearStaging).degen = s.degen := rfl
@[simp] theorem clearStaging_ok (s : State) :
    (s.clearStaging).ok = s.ok := rfl
@[simp] theorem clearStaging_err (s : State) :
    (s.clearStaging).err = s.err := rfl
@[simp] theorem clearStaging_ctype (s : State) :
    (s.clearStaging).ctype = s.ctype := rfl
@[simp] theorem clearStaging_len (s : State) :
    (s.clearStaging).len = s.len := rfl
@[simp] theorem clearStaging_ofs (s : State) :
    (s.clearStaging).ofs = s.ofs := rfl
@[simp] theorem clearStaging_result (s : State) :
    (s.clearStaging).result = s.result := rfl
@[simp] theorem clearStaging_iv (s : State) :
    (s.clearStaging).iv = s.iv := rfl
@[simp] theorem clearStaging_sk1 (s : State) :
    (s.clearStaging).sk1 = s.sk1 := rfl
@[simp] theorem clearStaging_sk2 (s : State) :
    (s.clearStaging).sk2 = s.sk2 := rfl
@[simp] theorem clearStaging_key (s : State) :
    (s.clearStaging).key = ByteArr.zero 24 := rfl
@[simp] theorem clearStaging_keylen (s : State) :
    (s.clearStaging).keylen = 0 := rfl
@[simp] theorem clearStaging_mac (s : State) :
    (s.clearStaging).mac = s.mac := rfl
@[simp] theorem clearStaging_pkey (s : State) :
    (s.clearStaging).pkey = s.pkey := rfl
@[simp] theorem clearStaging_mem (s : State) :
    (s.clearStaging).mem = s.mem := rfl
@[simp] theorem clearStaging_pending (s : State) :
    (s.clearStaging).pending = s.pending := rfl
@[simp] theorem clearStaging_readLog (s : State) :
    (s.clearStaging).readLog = s.readLog := rfl

/-! ### bind -/

@[simp] theorem bind_params (s : State) (t : CipherType) (K : List Byte) :
    (s.bind t K).params = s.params := rfl
@[simp] theorem bind_cmd (s : State) (t : CipherType) (K : List Byte) :
    (s.bind t K).cmd = s.cmd := rfl
@[simp] theorem bind_session (s : State) (t : CipherType) (K : List Byte) :
    (s.bind t K).session = Session.keyed := rfl
@[simp] theorem bind_skv (s : State) (t : CipherType) (K : List Byte) :
    (s.bind t K).skv = false := rfl
@[simp] theorem bind_degen (s : State) (t : CipherType) (K : List Byte) :
    (s.bind t K).degen = s.degen := rfl
@[simp] theorem bind_ok (s : State) (t : CipherType) (K : List Byte) :
    (s.bind t K).ok = s.ok := rfl
@[simp] theorem bind_err (s : State) (t : CipherType) (K : List Byte) :
    (s.bind t K).err = s.err := rfl
@[simp] theorem bind_ctype (s : State) (t : CipherType) (K : List Byte) :
    (s.bind t K).ctype = t := rfl
@[simp] theorem bind_len (s : State) (t : CipherType) (K : List Byte) :
    (s.bind t K).len = s.len := rfl
@[simp] theorem bind_ofs (s : State) (t : CipherType) (K : List Byte) :
    (s.bind t K).ofs = s.ofs := rfl
@[simp] theorem bind_result (s : State) (t : CipherType) (K : List Byte) :
    (s.bind t K).result = s.result := rfl
@[simp] theorem bind_iv (s : State) (t : CipherType) (K : List Byte) :
    (s.bind t K).iv = ByteArr.zero 16 := rfl
@[simp] theorem bind_sk1 (s : State) (t : CipherType) (K : List Byte) :
    (s.bind t K).sk1 = ByteArr.zero 16 := rfl
@[simp] theorem bind_sk2 (s : State) (t : CipherType) (K : List Byte) :
    (s.bind t K).sk2 = ByteArr.zero 16 := rfl
@[simp] theorem bind_key (s : State) (t : CipherType) (K : List Byte) :
    (s.bind t K).key = s.key := rfl
@[simp] theorem bind_keylen (s : State) (t : CipherType) (K : List Byte) :
    (s.bind t K).keylen = s.keylen := rfl
@[simp] theorem bind_mac (s : State) (t : CipherType) (K : List Byte) :
    (s.bind t K).mac = s.mac := rfl
@[simp] theorem bind_pkey (s : State) (t : CipherType) (K : List Byte) :
    (s.bind t K).pkey = fitBytes 24 K := rfl
@[simp] theorem bind_mem (s : State) (t : CipherType) (K : List Byte) :
    (s.bind t K).mem = s.mem := rfl
@[simp] theorem bind_pending (s : State) (t : CipherType) (K : List Byte) :
    (s.bind t K).pending = s.pending := rfl
@[simp] theorem bind_readLog (s : State) (t : CipherType) (K : List Byte) :
    (s.bind t K).readLog = s.readLog := rfl

/-! ### withIssueOf -/

@[simp] theorem withIssueOf_params (s : State) (w : BitVec 32) :
    (s.withIssueOf w).params = s.params := rfl
@[simp] theorem withIssueOf_cmd (s : State) (w : BitVec 32) :
    (s.withIssueOf w).cmd = setByteOfWord w 3 (byteOfWord s.cmd 3) := rfl
@[simp] theorem withIssueOf_session (s : State) (w : BitVec 32) :
    (s.withIssueOf w).session = s.session := rfl
@[simp] theorem withIssueOf_skv (s : State) (w : BitVec 32) :
    (s.withIssueOf w).skv = s.skv := rfl
@[simp] theorem withIssueOf_degen (s : State) (w : BitVec 32) :
    (s.withIssueOf w).degen = s.degen := rfl
@[simp] theorem withIssueOf_ok (s : State) (w : BitVec 32) :
    (s.withIssueOf w).ok = s.ok := rfl
@[simp] theorem withIssueOf_err (s : State) (w : BitVec 32) :
    (s.withIssueOf w).err = s.err := rfl
@[simp] theorem withIssueOf_ctype (s : State) (w : BitVec 32) :
    (s.withIssueOf w).ctype = s.ctype := rfl
@[simp] theorem withIssueOf_len (s : State) (w : BitVec 32) :
    (s.withIssueOf w).len = s.len := rfl
@[simp] theorem withIssueOf_ofs (s : State) (w : BitVec 32) :
    (s.withIssueOf w).ofs = s.ofs := rfl
@[simp] theorem withIssueOf_result (s : State) (w : BitVec 32) :
    (s.withIssueOf w).result = s.result := rfl
@[simp] theorem withIssueOf_iv (s : State) (w : BitVec 32) :
    (s.withIssueOf w).iv = s.iv := rfl
@[simp] theorem withIssueOf_sk1 (s : State) (w : BitVec 32) :
    (s.withIssueOf w).sk1 = s.sk1 := rfl
@[simp] theorem withIssueOf_sk2 (s : State) (w : BitVec 32) :
    (s.withIssueOf w).sk2 = s.sk2 := rfl
@[simp] theorem withIssueOf_key (s : State) (w : BitVec 32) :
    (s.withIssueOf w).key = s.key := rfl
@[simp] theorem withIssueOf_keylen (s : State) (w : BitVec 32) :
    (s.withIssueOf w).keylen = s.keylen := rfl
@[simp] theorem withIssueOf_mac (s : State) (w : BitVec 32) :
    (s.withIssueOf w).mac = s.mac := rfl
@[simp] theorem withIssueOf_pkey (s : State) (w : BitVec 32) :
    (s.withIssueOf w).pkey = s.pkey := rfl
@[simp] theorem withIssueOf_mem (s : State) (w : BitVec 32) :
    (s.withIssueOf w).mem = s.mem := rfl
@[simp] theorem withIssueOf_pending (s : State) (w : BitVec 32) :
    (s.withIssueOf w).pending = .write (s.params.base + issueOffset) (byteOfWord w 3) :: s.pending := rfl
@[simp] theorem withIssueOf_readLog (s : State) (w : BitVec 32) :
    (s.withIssueOf w).readLog = s.readLog := rfl

/-! ### deriveSubkeys -/

@[simp] theorem deriveSubkeys_params (p : Primitive) (s : State) :
    (deriveSubkeys p s).params = s.params := rfl
@[simp] theorem deriveSubkeys_cmd (p : Primitive) (s : State) :
    (deriveSubkeys p s).cmd = s.cmd := rfl
@[simp] theorem deriveSubkeys_session (p : Primitive) (s : State) :
    (deriveSubkeys p s).session = s.session := rfl
@[simp] theorem deriveSubkeys_skv (p : Primitive) (s : State) :
    (deriveSubkeys p s).skv = true := rfl
@[simp] theorem deriveSubkeys_degen (p : Primitive) (s : State) :
    (deriveSubkeys p s).degen = s.degen := rfl
@[simp] theorem deriveSubkeys_ok (p : Primitive) (s : State) :
    (deriveSubkeys p s).ok = s.ok := rfl
@[simp] theorem deriveSubkeys_err (p : Primitive) (s : State) :
    (deriveSubkeys p s).err = s.err := rfl
@[simp] theorem deriveSubkeys_ctype (p : Primitive) (s : State) :
    (deriveSubkeys p s).ctype = s.ctype := rfl
@[simp] theorem deriveSubkeys_len (p : Primitive) (s : State) :
    (deriveSubkeys p s).len = s.len := rfl
@[simp] theorem deriveSubkeys_ofs (p : Primitive) (s : State) :
    (deriveSubkeys p s).ofs = s.ofs := rfl
@[simp] theorem deriveSubkeys_result (p : Primitive) (s : State) :
    (deriveSubkeys p s).result = s.result := rfl
@[simp] theorem deriveSubkeys_iv (p : Primitive) (s : State) :
    (deriveSubkeys p s).iv = s.iv := rfl
@[simp] theorem deriveSubkeys_sk1 (p : Primitive) (s : State) :
    (deriveSubkeys p s).sk1 = fitBytes 16 (cmacK1 s.params.blockFns p s.pkey.val) := rfl
@[simp] theorem deriveSubkeys_sk2 (p : Primitive) (s : State) :
    (deriveSubkeys p s).sk2 = fitBytes 16 (cmacK2 s.params.blockFns p s.pkey.val) := rfl
@[simp] theorem deriveSubkeys_key (p : Primitive) (s : State) :
    (deriveSubkeys p s).key = s.key := rfl
@[simp] theorem deriveSubkeys_keylen (p : Primitive) (s : State) :
    (deriveSubkeys p s).keylen = s.keylen := rfl
@[simp] theorem deriveSubkeys_mac (p : Primitive) (s : State) :
    (deriveSubkeys p s).mac = s.mac := rfl
@[simp] theorem deriveSubkeys_pkey (p : Primitive) (s : State) :
    (deriveSubkeys p s).pkey = s.pkey := rfl
@[simp] theorem deriveSubkeys_mem (p : Primitive) (s : State) :
    (deriveSubkeys p s).mem = s.mem := rfl
@[simp] theorem deriveSubkeys_pending (p : Primitive) (s : State) :
    (deriveSubkeys p s).pending = s.pending := rfl
@[simp] theorem deriveSubkeys_readLog (p : Primitive) (s : State) :
    (deriveSubkeys p s).readLog = s.readLog := rfl

/-! ### sessionStart -/

@[simp] theorem sessionStart_session (s : State) : (sessionStart s).session = .session := rfl
@[simp] theorem sessionStart_iv (s : State) : (sessionStart s).iv = ByteArr.zero 16 := by
  unfold sessionStart; split <;> rfl
@[simp] theorem sessionStart_params (s : State) : (sessionStart s).params = s.params := by
  unfold sessionStart; split <;> rfl
@[simp] theorem sessionStart_cmd (s : State) : (sessionStart s).cmd = s.cmd := by
  unfold sessionStart; split <;> rfl
@[simp] theorem sessionStart_degen (s : State) : (sessionStart s).degen = s.degen := by
  unfold sessionStart; split <;> rfl
@[simp] theorem sessionStart_ok (s : State) : (sessionStart s).ok = s.ok := by
  unfold sessionStart; split <;> rfl
@[simp] theorem sessionStart_err (s : State) : (sessionStart s).err = s.err := by
  unfold sessionStart; split <;> rfl
@[simp] theorem sessionStart_ctype (s : State) : (sessionStart s).ctype = s.ctype := by
  unfold sessionStart; split <;> rfl
@[simp] theorem sessionStart_len (s : State) : (sessionStart s).len = s.len := by
  unfold sessionStart; split <;> rfl
@[simp] theorem sessionStart_ofs (s : State) : (sessionStart s).ofs = s.ofs := by
  unfold sessionStart; split <;> rfl
@[simp] theorem sessionStart_result (s : State) : (sessionStart s).result = s.result := by
  unfold sessionStart; split <;> rfl
@[simp] theorem sessionStart_key (s : State) : (sessionStart s).key = s.key := by
  unfold sessionStart; split <;> rfl
@[simp] theorem sessionStart_keylen (s : State) : (sessionStart s).keylen = s.keylen := by
  unfold sessionStart; split <;> rfl
@[simp] theorem sessionStart_mac (s : State) : (sessionStart s).mac = s.mac := by
  unfold sessionStart; split <;> rfl
@[simp] theorem sessionStart_pkey (s : State) : (sessionStart s).pkey = s.pkey := by
  unfold sessionStart; split <;> rfl
@[simp] theorem sessionStart_mem (s : State) : (sessionStart s).mem = s.mem := by
  unfold sessionStart; split <;> rfl
@[simp] theorem sessionStart_pending (s : State) : (sessionStart s).pending = s.pending := by
  unfold sessionStart; split <;> rfl
@[simp] theorem sessionStart_readLog (s : State) : (sessionStart s).readLog = s.readLog := by
  unfold sessionStart; split <;> rfl

/-! ### windowWrite: what a host write leaves alone -/

@[simp] theorem windowWrite_params (s : State) (a : Nat) (v : Byte) :
    (s.windowWrite a v).params = s.params := by
  unfold State.windowWrite; repeat' split
  all_goals rfl
@[simp] theorem windowWrite_session (s : State) (a : Nat) (v : Byte) :
    (s.windowWrite a v).session = s.session := by
  unfold State.windowWrite; repeat' split
  all_goals rfl
@[simp] theorem windowWrite_skv (s : State) (a : Nat) (v : Byte) :
    (s.windowWrite a v).skv = s.skv := by
  unfold State.windowWrite; repeat' split
  all_goals rfl
@[simp] theorem windowWrite_degen (s : State) (a : Nat) (v : Byte) :
    (s.windowWrite a v).degen = s.degen := by
  unfold State.windowWrite; repeat' split
  all_goals rfl
@[simp] theorem windowWrite_ok (s : State) (a : Nat) (v : Byte) :
    (s.windowWrite a v).ok = s.ok := by
  unfold State.windowWrite; repeat' split
  all_goals rfl
@[simp] theorem windowWrite_err (s : State) (a : Nat) (v : Byte) :
    (s.windowWrite a v).err = s.err := by
  unfold State.windowWrite; repeat' split
  all_goals rfl
@[simp] theorem windowWrite_ctype (s : State) (a : Nat) (v : Byte) :
    (s.windowWrite a v).ctype = s.ctype := by
  unfold State.windowWrite; repeat' split
  all_goals rfl
@[simp] theorem windowWrite_result (s : State) (a : Nat) (v : Byte) :
    (s.windowWrite a v).result = s.result := by
  unfold State.windowWrite; repeat' split
  all_goals rfl
@[simp] theorem windowWrite_iv (s : State) (a : Nat) (v : Byte) :
    (s.windowWrite a v).iv = s.iv := by
  unfold State.windowWrite; repeat' split
  all_goals rfl
@[simp] theorem windowWrite_sk1 (s : State) (a : Nat) (v : Byte) :
    (s.windowWrite a v).sk1 = s.sk1 := by
  unfold State.windowWrite; repeat' split
  all_goals rfl
@[simp] theorem windowWrite_sk2 (s : State) (a : Nat) (v : Byte) :
    (s.windowWrite a v).sk2 = s.sk2 := by
  unfold State.windowWrite; repeat' split
  all_goals rfl
@[simp] theorem windowWrite_mac (s : State) (a : Nat) (v : Byte) :
    (s.windowWrite a v).mac = s.mac := by
  unfold State.windowWrite; repeat' split
  all_goals rfl
@[simp] theorem windowWrite_pkey (s : State) (a : Nat) (v : Byte) :
    (s.windowWrite a v).pkey = s.pkey := by
  unfold State.windowWrite; repeat' split
  all_goals rfl
@[simp] theorem windowWrite_pending (s : State) (a : Nat) (v : Byte) :
    (s.windowWrite a v).pending = s.pending := by
  unfold State.windowWrite; repeat' split
  all_goals rfl
@[simp] theorem windowWrite_readLog (s : State) (a : Nat) (v : Byte) :
    (s.windowWrite a v).readLog = s.readLog := by
  unfold State.windowWrite; repeat' split
  all_goals rfl

/-! ### acceptReset -/

@[simp] theorem acceptReset_params (s : State) : (acceptReset s).params = s.params := rfl
@[simp] theorem acceptReset_cmd (s : State) : (acceptReset s).cmd = 0 := rfl
@[simp] theorem acceptReset_session (s : State) : (acceptReset s).session = .unkeyed := rfl
@[simp] theorem acceptReset_skv (s : State) : (acceptReset s).skv = false := rfl
@[simp] theorem acceptReset_degen (s : State) : (acceptReset s).degen = false := rfl
@[simp] theorem acceptReset_ok (s : State) : (acceptReset s).ok = false := rfl
@[simp] theorem acceptReset_err (s : State) : (acceptReset s).err = .none := rfl
@[simp] theorem acceptReset_ctype (s : State) : (acceptReset s).ctype = .none := rfl
@[simp] theorem acceptReset_len (s : State) : (acceptReset s).len = 0 := rfl
@[simp] theorem acceptReset_ofs (s : State) : (acceptReset s).ofs = 0 := rfl
@[simp] theorem acceptReset_result (s : State) : (acceptReset s).result = 0 := rfl
@[simp] theorem acceptReset_iv (s : State) : (acceptReset s).iv = ByteArr.zero _ := rfl
@[simp] theorem acceptReset_sk1 (s : State) : (acceptReset s).sk1 = ByteArr.zero _ := rfl
@[simp] theorem acceptReset_sk2 (s : State) : (acceptReset s).sk2 = ByteArr.zero _ := rfl
@[simp] theorem acceptReset_key (s : State) : (acceptReset s).key = ByteArr.zero _ := rfl
@[simp] theorem acceptReset_keylen (s : State) : (acceptReset s).keylen = 0 := rfl
@[simp] theorem acceptReset_mac (s : State) : (acceptReset s).mac = ByteArr.zero _ := rfl
@[simp] theorem acceptReset_pkey (s : State) : (acceptReset s).pkey = ByteArr.zero _ := rfl
@[simp] theorem acceptReset_mem (s : State) : (acceptReset s).mem = [] := rfl
@[simp] theorem acceptReset_pending (s : State) : (acceptReset s).pending = s.pending := rfl
@[simp] theorem acceptReset_readLog (s : State) : (acceptReset s).readLog = s.readLog := rfl

end Sys2Proof.Machine
end

