-- ==== Sys2Proof/Laws/Memory.lean ====
section
/-! SUPPORT. What reading and writing BUF can do, said once for each operation. -/

namespace Sys2Proof.Machine

/-! ### One byte -/

theorem Memory.read_write_same (m : Memory) (a : Nat) (v : Byte) : (m.write a v).read a = some v := by
  induction m with
  | nil => simp [Memory.write, Memory.read]
  | cons c m ih =>
    unfold Memory.write
    split
    · simp [Memory.read]
    · split
      · simp [Memory.read]
      · rename_i h; simp [Memory.read, Ne.symm h, ih]

theorem Memory.read_write_other (m : Memory) (a : Nat) (v : Byte) (x : Nat) (h : x ≠ a) :
    (m.write a v).read x = m.read x := by
  induction m with
  | nil => simp [Memory.write, Memory.read, Ne.symm h]
  | cons c m ih =>
    unfold Memory.write
    split
    · simp [Memory.read, Ne.symm h]
    · split
      · rename_i h'; subst h'; simp [Memory.read, Ne.symm h]
      · simp [Memory.read, ih]

@[simp] theorem Memory.read_write (m : Memory) (a : Nat) (v : Byte) (x : Nat) :
    (m.write a v).read x = if x = a then some v else m.read x := by
  split
  · rename_i h; subst h; exact read_write_same ..
  · rename_i h; exact read_write_other _ _ _ _ h

/-- The addresses a write leaves listed are the old ones and the one written. -/
theorem Memory.mem_write {m : Memory} {a : Nat} {v : Byte} {c : Host.Cell} (h : c ∈ m.write a v) :
    c ∈ m ∨ c = (a, v) := by
  induction m with
  | nil => simp [Memory.write] at h; exact .inr h
  | cons d m ih =>
    unfold Memory.write at h
    split at h
    · simp only [List.mem_cons] at h ⊢; tauto
    · split at h
      · simp only [List.mem_cons] at h ⊢; tauto
      · simp only [List.mem_cons] at h ⊢
        rcases h with h | h
        · exact .inl (.inl h)
        · rcases ih h with h | h
          · exact .inl (.inr h)
          · exact .inr h

/-- A write keeps the canonical form. -/
theorem Memory.write_wf {m : Memory} (h : m.wf) (a : Nat) (v : Byte) : (m.write a v).wf := by
  induction m with
  | nil => simp [Memory.wf, Memory.write]
  | cons c m ih =>
    have hc : ∀ d ∈ m, c.1 < d.1 := (List.pairwise_cons.1 h).1
    have hm : Memory.wf m := (List.pairwise_cons.1 h).2
    unfold Memory.write Memory.wf
    split
    · rename_i hlt
      refine List.pairwise_cons.2 ⟨?_, h⟩
      intro d hd
      rcases List.mem_cons.1 hd with rfl | hd
      · exact hlt
      · exact lt_trans hlt (hc d hd)
    · split
      · rename_i heq
        subst heq
        exact List.pairwise_cons.2 ⟨hc, hm⟩
      · rename_i hlt hne
        refine List.pairwise_cons.2 ⟨?_, ih hm⟩
        intro d hd
        rcases Memory.mem_write hd with hd | rfl
        · exact hc d hd
        · show c.1 < a
          omega

/-! ### Ranges -/

theorem Memory.read_writeRange (m : Memory) (a : Nat) (vs : List Byte) (x : Nat) :
    (m.writeRange a vs).read x =
      if a ≤ x ∧ x < a + vs.length then vs[x - a]? else m.read x := by
  induction vs generalizing m a with
  | nil => simp [Memory.writeRange]
  | cons v vs ih =>
    rw [Memory.writeRange, ih, Memory.read_write]
    by_cases hx : x = a
    · subst hx; simp
    · by_cases hr : a + 1 ≤ x ∧ x < a + 1 + vs.length
      · have : x - a = (x - (a + 1)) + 1 := by omega
        rw [if_pos hr, if_pos (by simp; omega), this, List.getElem?_cons_succ]
      · rw [if_neg hr, if_neg hx, if_neg (by simp; omega)]

/-- Outside the stored bytes a range write leaves every byte alone. -/
theorem Memory.read_writeRange_outside (m : Memory) (a : Nat) (vs : List Byte) (x : Nat)
    (h : x < a ∨ a + vs.length ≤ x) : (m.writeRange a vs).read x = m.read x := by
  rw [Memory.read_writeRange, if_neg (by omega)]

theorem Memory.writeRange_wf {m : Memory} (h : m.wf) (a : Nat) (vs : List Byte) :
    (m.writeRange a vs).wf := by
  induction vs generalizing m a with
  | nil => exact h
  | cons v vs ih => exact ih (Memory.write_wf h a v) (a + 1)

theorem Memory.mem_writeRange {m : Memory} {a : Nat} {vs : List Byte} {c : Host.Cell}
    (h : c ∈ m.writeRange a vs) : c ∈ m ∨ (a ≤ c.1 ∧ c.1 < a + vs.length) := by
  induction vs generalizing m a with
  | nil => exact .inl h
  | cons v vs ih =>
    rcases ih h with h | h
    · rcases Memory.mem_write h with h | rfl
      · exact .inl h
      · exact .inr (by simp)
    · exact .inr (by simp; omega)

/-- What a range read answers, byte by byte. -/
theorem Memory.readRange_ok {m : Memory} {a n : Nat} {vs : List Byte} :
    m.readRange a n = .ok vs ↔ vs.length = n ∧ ∀ i < n, m.read (a + i) = vs[i]? := by
  induction n generalizing a vs with
  | zero =>
    simp only [Memory.readRange, Except.ok.injEq, Nat.not_lt_zero, false_imp_iff, implies_true,
      and_true]
    constructor
    · rintro rfl; rfl
    · intro h; exact (List.eq_nil_of_length_eq_zero h).symm
  | succ n ih =>
    unfold Memory.readRange
    constructor
    · intro h
      split at h
      · cases h
      · rename_i v hv
        split at h
        · rename_i ws hws
          cases h
          obtain ⟨hl, hr⟩ := ih.1 hws
          refine ⟨by simp [hl], ?_⟩
          intro i hi
          cases i with
          | zero => simpa using hv
          | succ i =>
            have := hr i (by omega)
            rw [List.getElem?_cons_succ, ← this]
            congr 1
            omega
        · cases h
    · rintro ⟨hl, hr⟩
      cases vs with
      | nil => simp at hl
      | cons v ws =>
        have h0 := hr 0 (by omega)
        simp only [Nat.add_zero, List.getElem?_cons_zero] at h0
        have hws : m.readRange (a + 1) n = .ok ws := by
          refine ih.2 ⟨by simpa using hl, ?_⟩
          intro i hi
          have := hr (i + 1) (by omega)
          rw [List.getElem?_cons_succ] at this
          rw [← this]
          congr 1
          omega
        simp [h0, hws]

theorem Memory.readRange_length {m : Memory} {a n : Nat} {vs : List Byte}
    (h : m.readRange a n = .ok vs) : vs.length = n := (Memory.readRange_ok.1 h).1

/-- A range read fails only at an address of the range that holds no value. -/
theorem Memory.readRange_error {m : Memory} {a n x : Nat} (h : m.readRange a n = .error x) :
    a ≤ x ∧ x < a + n ∧ m.read x = none := by
  induction n generalizing a with
  | zero => simp [Memory.readRange] at h
  | succ n ih =>
    unfold Memory.readRange at h
    split at h
    · rename_i hv
      cases h
      exact ⟨le_refl _, by omega, hv⟩
    · split at h
      · cases h
      · rename_i e he
        cases h
        have := ih he
        exact ⟨by omega, by omega, this.2.2⟩

/-- Reading back what a range write stored. -/
theorem Memory.readRange_writeRange (m : Memory) (a : Nat) (vs : List Byte) :
    (m.writeRange a vs).readRange a vs.length = .ok vs := by
  refine Memory.readRange_ok.2 ⟨rfl, ?_⟩
  intro i hi
  rw [Memory.read_writeRange, if_pos (by omega)]
  congr 1
  omega

/-- A range read depends on the bytes of the range alone. -/
theorem Memory.readRange_congr {m m' : Memory} {a n : Nat}
    (h : ∀ i < n, m.read (a + i) = m'.read (a + i)) : m.readRange a n = m'.readRange a n := by
  induction n generalizing a with
  | zero => rfl
  | succ n ih =>
    have h0 := h 0 (by omega)
    have hs : m.readRange (a + 1) n = m'.readRange (a + 1) n := by
      apply ih
      intro i hi
      have := h (i + 1) (by omega)
      have e : a + 1 + i = a + (i + 1) := by omega
      rw [e]; exact this
    simp only [Nat.add_zero] at h0
    unfold Memory.readRange
    rw [h0, hs]

/-- The memory of the reset state is in canonical form. -/
theorem reset_mem_wf : State.reset.mem.wf := List.Pairwise.nil

/-- A command's write to BUF keeps the canonical form. -/
theorem State.writeBuf_wf {s : State} (h : s.mem.wf) (i : Nat) (v : List Byte) :
    (s.writeBuf i v).mem.wf := Memory.writeRange_wf h _ _

/-- A host write keeps the canonical form. -/
theorem State.windowWrite_wf {s : State} (h : s.mem.wf) (a : Nat) (v : Byte) :
    (s.windowWrite a v).mem.wf := by
  unfold State.windowWrite
  repeat' split
  all_goals first
    | exact h
    | exact Memory.write_wf h _ _

end Sys2Proof.Machine
end

