-- ==== Sys2Proof/Laws/Bytes.lean ====
section
/-! SUPPORT. Lengths of the byte strings the rules build, and the block functions' own. -/

namespace Sys2Proof.Machine

@[simp] theorem zeros_length (n : Nat) : (zeros n).length = n := List.length_replicate

@[simp] theorem slice_length (s : List Byte) (i j : Nat) :
    (slice s i j).length = min (j - i) (s.length - i) := by simp [slice]

@[simp] theorem xorBytes_length (s t : List Byte) :
    (xorBytes s t).length = min s.length t.length := by simp [xorBytes]

@[simp] theorem le16_length (v : BitVec 16) : (le16 v).length = 2 := rfl

@[simp] theorem le32_length (v : BitVec 32) : (le32 v).length = 4 := rfl

@[simp] theorem fitBytes_val_length (n : Nat) (s : List Byte) : (fitBytes n s).val.length = n :=
  (fitBytes n s).property

/-- A string of the register's own length is stored as it is. -/
theorem fitBytes_val_of_length {n : Nat} {s : List Byte} (h : s.length = n) :
    (fitBytes n s).val = s := by
  subst h; simp [fitBytes]

/-- A string no longer than the register comes back as the register's first bytes. -/
theorem fitBytes_take {n : Nat} {s : List Byte} (h : s.length ≤ n) :
    (fitBytes n s).val.take s.length = s := by
  simp [fitBytes, List.take_take, h]

@[simp] theorem blockOfBits_length (b : Nat) (x : BitVec (8 * b)) : (blockOfBits b x).length = b := by
  simp [blockOfBits]

@[simp] theorem onBlock64_length (f : BitVec 64 → BitVec 64) (x : List Byte) :
    (onBlock64 f x).length = 8 := blockOfBits_length 8 _

@[simp] theorem onBlock128_length (f : BitVec 128 → BitVec 128) (x : List Byte) :
    (onBlock128 f x).length = 16 := blockOfBits_length 16 _

/-! ### AES keeps 16 bytes -/

@[simp] theorem rotWord_length (t : List Byte) : (rotWord t).length = t.length := by
  simp [rotWord]; omega

@[simp] theorem subWord_length (t : List Byte) : (subWord t).length = t.length := by simp [subWord]

theorem aesNextRoundKey_length (rc : Byte) {k : List Byte} (h : k.length = 16) :
    (aesNextRoundKey rc k).length = 16 := by
  simp [aesNextRoundKey, h]

theorem aesRoundKeysFrom_length (rcs : List Byte) {k : List Byte} (h : k.length = 16) :
    ∀ r ∈ aesRoundKeysFrom rcs k, r.length = 16 := by
  induction rcs generalizing k with
  | nil => intro r hr; simp [aesRoundKeysFrom] at hr; simpa [hr] using h
  | cons rc rcs ih =>
    intro r hr
    rcases List.mem_cons.1 hr with rfl | hr
    · exact h
    · exact ih (aesNextRoundKey_length rc h) r hr

theorem aesRoundKeys_length {key : List Byte} (h : key.length = 16) :
    ∀ r ∈ aesRoundKeys key, r.length = 16 := aesRoundKeysFrom_length aesRC h

@[simp] theorem shiftRows_length (s : List Byte) : (shiftRows s).length = 16 := by
  simp [shiftRows, aesArrange]

@[simp] theorem invShiftRows_length (s : List Byte) : (invShiftRows s).length = 16 := by
  simp [invShiftRows, aesArrange]

theorem onColumns_mixColumn_length (k0 k1 k2 k3 : Byte) (s : List Byte) :
    (onColumns (mixColumn k0 k1 k2 k3) s).length = s.length / 4 * 4 := by
  match s with
  | [] => simp [onColumns]
  | [_] => simp [onColumns]
  | [_, _] => simp [onColumns]
  | [_, _, _] => simp [onColumns]
  | s0 :: s1 :: s2 :: s3 :: rest =>
    have := onColumns_mixColumn_length k0 k1 k2 k3 rest
    simp only [onColumns, List.length_append, this, List.length_cons]
    simp only [mixColumn, List.length_cons, List.length_nil]
    omega

theorem aesEncRounds_length (ks : List (List Byte)) (h : ∀ k ∈ ks, k.length = 16) {s : List Byte}
    (hs : s.length = 16) : (aesEncRounds ks s).length = 16 := by
  induction ks generalizing s with
  | nil => exact hs
  | cons k ks ih =>
    have hk := h k (by simp)
    cases ks with
    | nil => simp [aesEncRounds, hk]
    | cons k' ks =>
      rw [aesEncRounds]
      · exact ih (fun r hr => h r (by simp [List.mem_cons.1 hr]))
          (by simp [mixColumns, onColumns_mixColumn_length, hk])
      · simp

theorem aesDecRounds_length (ks : List (List Byte)) (h : ∀ k ∈ ks, k.length = 16) {s : List Byte}
    (hs : s.length = 16) : (aesDecRounds ks s).length = 16 := by
  induction ks generalizing s with
  | nil => exact hs
  | cons k ks ih =>
    have hk := h k (by simp)
    cases ks with
    | nil => simp [aesDecRounds, hk]
    | cons k' ks =>
      rw [aesDecRounds]
      · exact ih (fun r hr => h r (by simp [List.mem_cons.1 hr]))
          (by simp [invMixColumns, onColumns_mixColumn_length, hk])
      · simp

theorem aesEnc_length {key x : List Byte} (hk : key.length = 16) (hx : x.length = 16) :
    (aesEnc key x).length = 16 := by
  have h := aesRoundKeys_length hk
  unfold aesEnc
  split
  · exact hx
  · rename_i k ks e
    rw [e] at h
    have hk' := h k (by simp)
    exact aesEncRounds_length ks (fun r hr => h r (by simp [hr])) (by simp [hx, hk'])

theorem aesDec_length {key y : List Byte} (hk : key.length = 16) (hy : y.length = 16) :
    (aesDec key y).length = 16 := by
  have h := aesRoundKeys_length hk
  unfold aesDec
  split
  · exact hy
  · rename_i k ks e
    have h' : ∀ r ∈ k :: ks, r.length = 16 := by
      intro r hr; rw [← e] at hr; exact h r (List.mem_reverse.1 hr)
    have hk' := h' k (by simp)
    exact aesDecRounds_length ks (fun r hr => h' r (by simp [hr])) (by simp [hy, hk'])

/-- A block goes to a block, under every primitive and key of the register's length. -/
theorem blockEnc_length (fns : BlockFns) (p : Primitive) {K x : List Byte} (hK : K.length = 24)
    (hx : x.length = blockSize p) : (blockEnc fns p K x).length = blockSize p := by
  cases fns <;> cases p <;> simp [blockEnc, blockSize] at hx ⊢
  exact aesEnc_length (by simp [hK]) hx

theorem blockDec_length (fns : BlockFns) (p : Primitive) {K y : List Byte} (hK : K.length = 24)
    (hy : y.length = blockSize p) : (blockDec fns p K y).length = blockSize p := by
  cases fns <;> cases p <;> simp [blockDec, blockSize] at hy ⊢
  exact aesDec_length (by simp [hK]) hy

/-! ### CBC keeps the length, and its chaining value is a block -/

theorem blocksOf_length (b m : Nat) (s : List Byte) : (blocksOf b m s).length = m := by
  induction m generalizing s with
  | zero => rfl
  | succ m ih => simp [blocksOf, ih]

theorem blocksOf_mem_length {b m : Nat} {s : List Byte} (h : m * b ≤ s.length) :
    ∀ x ∈ blocksOf b m s, x.length = b := by
  induction m generalizing s with
  | zero => simp [blocksOf]
  | succ m ih =>
    rw [Nat.succ_mul] at h
    intro x hx
    rcases List.mem_cons.1 hx with rfl | hx
    · simp; omega
    · exact ih (s := s.drop b) (by simp; omega) x hx

theorem blocks_mem_length (b : Nat) (s : List Byte) : ∀ x ∈ blocks b s, x.length = b :=
  blocksOf_mem_length (Nat.div_mul_le_self _ _)

theorem cbcEncBlocks_length {E : List Byte → List Byte} {b : Nat}
    (hE : ∀ x, x.length = b → (E x).length = b) {ps : List (List Byte)}
    (hp : ∀ x ∈ ps, x.length = b) {iv : List Byte} (hiv : iv.length = b) :
    (cbcEncBlocks E iv ps).1.length = ps.length * b ∧ (cbcEncBlocks E iv ps).2.length = b := by
  induction ps generalizing iv with
  | nil => simp [cbcEncBlocks, hiv]
  | cons p ps ih =>
    have hc : (E (xorBytes p iv)).length = b := hE _ (by simp [hp p (by simp), hiv])
    have := ih (fun x hx => hp x (by simp [hx])) hc
    simp [cbcEncBlocks, this, hc, Nat.succ_mul]; omega

theorem cbcDecBlocks_length {D : List Byte → List Byte} {b : Nat}
    (hD : ∀ x, x.length = b → (D x).length = b) {cs : List (List Byte)}
    (hc : ∀ x ∈ cs, x.length = b) {iv : List Byte} (hiv : iv.length = b) :
    (cbcDecBlocks D iv cs).1.length = cs.length * b ∧ (cbcDecBlocks D iv cs).2.length = b := by
  induction cs generalizing iv with
  | nil => simp [cbcDecBlocks, hiv]
  | cons c cs ih =>
    have h := ih (fun x hx => hc x (by simp [hx])) (hc c (by simp))
    simp [cbcDecBlocks, h, hD c (hc c (by simp)), hiv, Nat.succ_mul]; omega

theorem blockSize_pos (p : Primitive) : 0 < blockSize p := by cases p <;> decide

theorem blockSize_le (p : Primitive) : blockSize p ≤ 16 := by cases p <;> decide

/-- CBC encryption of whole blocks keeps the length and leaves a block in IV. -/
theorem cbcEnc_length (fns : BlockFns) (p : Primitive) {K iv s : List Byte} (hK : K.length = 24)
    (hiv : iv.length = blockSize p) :
    (cbcEnc fns p K iv s).1.length = s.length / blockSize p * blockSize p ∧
      (cbcEnc fns p K iv s).2.length = blockSize p := by
  have := cbcEncBlocks_length (E := blockEnc fns p K) (fun _ hx => blockEnc_length fns p hK hx)
    (blocks_mem_length (blockSize p) s) hiv
  simpa [cbcEnc, blocks, blocksOf_length] using this

/-- CBC decryption of whole blocks keeps the length and leaves a block in IV. -/
theorem cbcDec_length (fns : BlockFns) (p : Primitive) {K iv s : List Byte} (hK : K.length = 24)
    (hiv : iv.length = blockSize p) :
    (cbcDec fns p K iv s).1.length = s.length / blockSize p * blockSize p ∧
      (cbcDec fns p K iv s).2.length = blockSize p := by
  have := cbcDecBlocks_length (D := blockDec fns p K) (fun _ hx => blockDec_length fns p hK hx)
    (blocks_mem_length (blockSize p) s) hiv
  simpa [cbcDec, blocks, blocksOf_length] using this

/-- IV_b is a block. -/
theorem ivB_length (s : State) (p : Primitive) : (s.ivB (blockSize p)).length = blockSize p := by
  have := blockSize_le p
  simp [State.ivB, s.iv.property]; omega

end Sys2Proof.Machine
end

