-- ==== Sys2Proof/Laws/Commands.lean ====
section
/-! SUPPORT. What each shared operation of the commands can answer, said once: "if it answers next t, then …".
Later proofs cite these and do not unfold the operations. -/

namespace Sys2Proof.Machine

/-- The state a successful command leaves, apart from its own effect. -/
abbrev State.succeeded (s : State) : State := { s with err := .none, ok := true }

/-- The state an error leaves, apart from the command's own effect. -/
abbrev State.failed (s : State) (e : Err) : State := { s with err := e, ok := false }

theorem done_eq (s : State) : done s = .next s.succeeded := rfl

theorem raise_eq (e : Err) (s : State) : raise e s = .next (s.failed e) := rfl

@[simp] theorem done_next {s t : State} : done s = .next t ↔ t = s.succeeded := by
  simp [done, eq_comm]

@[simp] theorem raise_next {e : Err} {s t : State} : raise e s = .next t ↔ t = s.failed e := by
  simp [raise, eq_comm]

/-! ### Operands -/

theorem State.readBuf_length {s : State} {i j : Nat} {data : List Byte}
    (h : s.readBuf i j = .ok data) : data.length = j - i := Memory.readRange_length h

theorem withBuf_ok {s : State} {i j : Nat} {data : List Byte} (h : s.readBuf i j = .ok data)
    (k : List Byte → Result) : withBuf s i j k = k data := by simp [withBuf, h]

theorem withBuf_next {s t : State} {i j : Nat} {k : List Byte → Result} :
    withBuf s i j k = .next t ↔ ∃ data, s.readBuf i j = .ok data ∧ k data = .next t := by
  unfold withBuf; split <;> rename_i h <;> simp [h]

theorem whenKeyed_next {s t : State} {k : Result} (h : whenKeyed s k = .next t) :
    (s.session = .unkeyed ∧ t = s.failed .state) ∨ (s.session ≠ .unkeyed ∧ k = .next t) := by
  unfold whenKeyed at h; split at h
  · exact .inl ⟨‹_›, by simpa using h⟩
  · exact .inr ⟨‹_›, h⟩

theorem whenSession_next {s t : State} {k : Result} (h : whenSession s k = .next t) :
    (s.session ≠ .session ∧ t = s.failed .state) ∨ (s.session = .session ∧ k = .next t) := by
  unfold whenSession at h; split at h
  · exact .inr ⟨‹_›, h⟩
  · exact .inl ⟨‹_›, by simpa using h⟩

theorem whenRange_next {s t : State} {k : Result} (h : whenRange s k = .next t) :
    (¬ s.rangeOk ∧ t = s.failed .length) ∨ (s.rangeOk ∧ k = .next t) := by
  unfold whenRange at h; split at h
  · exact .inr ⟨‹_›, h⟩
  · exact .inl ⟨‹_›, by simpa using h⟩

theorem whenLen_next {s t : State} {k : Result} (h : whenLen s k = .next t) :
    (¬ s.lenOk ∧ t = s.failed .length) ∨ (s.lenOk ∧ k = .next t) := by
  unfold whenLen at h; split at h
  · exact .inr ⟨‹_›, h⟩
  · exact .inl ⟨‹_›, by simpa using h⟩

theorem whenFits_next {s t : State} {n' : Nat} {k : Result} (h : whenFits s n' k = .next t) :
    (¬ s.fits n' ∧ t = s.failed .length) ∨ (s.fits n' ∧ k = .next t) := by
  unfold whenFits at h; split at h
  · exact .inr ⟨‹_›, h⟩
  · exact .inl ⟨‹_›, by simpa using h⟩

/-! ### Families of commands -/

/-- Everything DO_CRYPTO can do (spec/40_primitive.md R160). -/
theorem doCrypto_next {F : BlockFns → Primitive → List Byte → List Byte → List Byte → List Byte × List Byte}
    {s t : State} (h : doCrypto F s = .next t) :
    (∃ e, e ≠ .none ∧ t = s.failed e) ∨
    ∃ p data, s.session ≠ .unkeyed ∧ primitiveOf s.ctype = some p ∧ s.rangeOk ∧
      (s.n - s.o) % blockSize p = 0 ∧ s.readBuf s.o s.n = .ok data ∧
      t = ((s.writeBuf s.o (F s.params.blockFns p s.pkey.val (s.ivB (blockSize p)) data).1).setIv
        (F s.params.blockFns p s.pkey.val (s.ivB (blockSize p)) data).2).succeeded := by
  rcases whenKeyed_next h with ⟨_, rfl⟩ | ⟨hk, h⟩
  · exact .inl ⟨.state, by decide, rfl⟩
  · split at h
    · exact .inl ⟨.unsupported, by decide, by simpa using h⟩
    · rename_i p hp
      rcases whenRange_next h with ⟨_, rfl⟩ | ⟨hr, h⟩
      · exact .inl ⟨.length, by decide, rfl⟩
      · split at h
        · exact .inl ⟨.length, by decide, by simpa using h⟩
        · rename_i hm
          obtain ⟨data, hd, h⟩ := withBuf_next.1 h
          exact .inr ⟨p, data, hk, hp, hr, not_not.1 hm, hd, by simpa using h⟩

/-- Everything a CRC command can do (spec/46_integrity_helpers.md R384). -/
theorem crcCommand_next {crc : List Byte → BitVec 32} {s t : State} (h : crcCommand crc s = .next t) :
    (¬ s.rangeOk ∧ t = s.failed .length) ∨
    ∃ data, s.rangeOk ∧ s.readBuf s.o s.n = .ok data ∧
      t = State.succeeded { s with result := crc data } := by
  rcases whenRange_next h with h | ⟨hr, h⟩
  · exact .inl h
  · obtain ⟨data, hd, h⟩ := withBuf_next.1 h
    exact .inr ⟨data, hr, hd, by simpa using h⟩

/-- Everything a PADLEN command can do (spec/46_integrity_helpers.md R389). -/
theorem padlenCommand_next {len : Nat → Nat → Nat} {b : Byte} {s t : State}
    (h : padlenCommand len b s = .next t) :
    (b = 0 ∧ t = s.failed .illegal) ∨
    (b ≠ 0 ∧ t = State.succeeded { s with result := BitVec.ofNat 32 (len s.n b.toNat) }) := by
  unfold padlenCommand at h; split at h
  · exact .inl ⟨‹_›, by simpa using h⟩
  · exact .inr ⟨‹_›, by simpa using h⟩

/-- Everything ROTATE can do (spec/46_integrity_helpers.md R391). -/
theorem execRotate_next {k : Byte} {s t : State} (h : execRotate k s = .next t) :
    (¬ s.rangeOk ∧ t = s.failed .length) ∨ (s.n - s.o = 0 ∧ t = s.succeeded) ∨
    ∃ data, s.rangeOk ∧ s.readBuf s.o s.n = .ok data ∧
      t = (s.writeBuf s.o (rotateBytes k.toNat data)).succeeded := by
  rcases whenRange_next h with h | ⟨hr, h⟩
  · exact .inl h
  · split at h
    · exact .inr (.inl ⟨‹_›, by simpa using h⟩)
    · obtain ⟨data, hd, h⟩ := withBuf_next.1 h
      exact .inr (.inr ⟨data, hr, hd, by simpa using h⟩)

/-- Everything PREPARE_TX in mac or cipher mode can do before its transform (spec/45_dispatch.md R340). -/
theorem prepareTx_next {legacy default : Primitive → State → Result} {s t : State}
    (h : prepareTx legacy default s = .next t) :
    (∃ e, e ≠ .none ∧ t = s.failed e) ∨
    (s.session = .session ∧ s.rangeOk ∧ ∃ p, (factory s.ctype = .legacy p ∧ legacy p s = .next t) ∨
      (factory s.ctype = .default p ∧ default p s = .next t)) := by
  rcases whenSession_next h with ⟨_, rfl⟩ | ⟨hs, h⟩
  · exact .inl ⟨.state, by decide, rfl⟩
  · split at h
    · exact .inl ⟨.modeViolation, by decide, by simpa using h⟩
    · rename_i p hp
      rcases whenRange_next h with ⟨_, rfl⟩ | ⟨hr, h⟩
      · exact .inl ⟨.length, by decide, rfl⟩
      · exact .inr ⟨hs, hr, p, .inl ⟨hp, h⟩⟩
    · rename_i p hp
      rcases whenRange_next h with ⟨_, rfl⟩ | ⟨hr, h⟩
      · exact .inl ⟨.length, by decide, rfl⟩
      · exact .inr ⟨hs, hr, p, .inr ⟨hp, h⟩⟩

/-- Everything CONFIRM_RX in mac or cipher mode can do before its transform (spec/45_dispatch.md R345). -/
theorem confirmRx_next {legacy default : Primitive → State → Result} {s t : State}
    (h : confirmRx legacy default s = .next t) :
    (∃ e, e ≠ .none ∧ e ≠ .integrity ∧ t = s.failed e) ∨
    (s.session = .session ∧ s.lenOk ∧ ∃ p, (factory s.ctype = .legacy p ∧ legacy p s = .next t) ∨
      (factory s.ctype = .default p ∧ default p s = .next t)) := by
  rcases whenSession_next h with ⟨_, rfl⟩ | ⟨hs, h⟩
  · exact .inl ⟨.state, by decide, by decide, rfl⟩
  · split at h
    · exact .inl ⟨.modeViolation, by decide, by decide, by simpa using h⟩
    · rename_i p hp
      rcases whenLen_next h with ⟨_, rfl⟩ | ⟨hr, h⟩
      · exact .inl ⟨.length, by decide, by decide, rfl⟩
      · exact .inr ⟨hs, hr, p, .inl ⟨hp, h⟩⟩
    · rename_i p hp
      rcases whenLen_next h with ⟨_, rfl⟩ | ⟨hr, h⟩
      · exact .inl ⟨.length, by decide, by decide, rfl⟩
      · exact .inr ⟨hs, hr, p, .inr ⟨hp, h⟩⟩

/-! ### The transforms -/

/-- Everything LTX_MAC can do (spec/43_legacy_wrapper.md R272). -/
theorem legacyTxMac_next {p : Primitive} {s t : State} (h : legacyTxMac p s = .next t) :
    (¬ s.fits (s.n + 4) ∧ t = s.failed .length) ∨
    ∃ x, s.fits (s.n + 4) ∧ s.readBuf s.o s.n = .ok x ∧
      t = (((s.writeBuf s.n ((legacyMac s.params.blockFns p s.pkey.val x).take 4)).setLen
        (s.n + 4)).setIv (legacyMac s.params.blockFns p s.pkey.val x)).succeeded := by
  rcases whenFits_next h with h | ⟨hf, h⟩
  · exact .inl h
  · obtain ⟨x, hx, h⟩ := withBuf_next.1 h
    exact .inr ⟨x, hf, hx, by simpa using h⟩

/-- Everything LTX_CIPHER can do (spec/43_legacy_wrapper.md R273). -/
theorem legacyTxCipher_next {p : Primitive} {s t : State} (h : legacyTxCipher p s = .next t) :
    (¬ s.fits (s.o + padlen (s.n - s.o + 2) 8) ∧ t = s.failed .length) ∨
    ∃ x, s.fits (s.o + padlen (s.n - s.o + 2) 8) ∧ s.readBuf s.o s.n = .ok x ∧
      t = (((s.writeBuf s.o (cbcEnc s.params.blockFns p s.pkey.val (zeros 8)
        (legacyTail s.params x)).1).setLen (s.o + padlen (s.n - s.o + 2) 8)).setIv
        (cbcEnc s.params.blockFns p s.pkey.val (zeros 8) (legacyTail s.params x)).2).succeeded := by
  rcases whenFits_next h with h | ⟨hf, h⟩
  · exact .inl h
  · obtain ⟨x, hx, h⟩ := withBuf_next.1 h
    exact .inr ⟨x, hf, hx, by simpa using h⟩

/-- Everything LRX_MAC can do (spec/43_legacy_wrapper.md R274). -/
theorem legacyRxMac_next {p : Primitive} {s t : State} (h : legacyRxMac p s = .next t) :
    (s.n < 4 ∧ t = s.failed .integrity) ∨
    ∃ x, 4 ≤ s.n ∧ s.readBuf 0 s.n = .ok x ∧
      (((legacyMac s.params.blockFns p s.pkey.val (x.take (s.n - 4))).take 4 ≠ x.drop (s.n - 4) ∧
        t = (s.setIv (legacyMac s.params.blockFns p s.pkey.val (x.take (s.n - 4)))).failed .integrity) ∨
      ((legacyMac s.params.blockFns p s.pkey.val (x.take (s.n - 4))).take 4 = x.drop (s.n - 4) ∧
        t = ((s.setIv (legacyMac s.params.blockFns p s.pkey.val (x.take (s.n - 4)))).setLen
          (s.n - 4)).succeeded)) := by
  unfold legacyRxMac at h; split at h
  · exact .inl ⟨‹_›, by simpa using h⟩
  · rename_i hn
    obtain ⟨x, hx, h⟩ := withBuf_next.1 h
    refine .inr ⟨x, by omega, hx, ?_⟩
    dsimp only at h
    split at h
    · exact .inl ⟨‹_›, by simpa using h⟩
    · exact .inr ⟨not_not.1 ‹_›, by simpa using h⟩

/-- Everything LRX_CIPHER can do (spec/43_legacy_wrapper.md R275). -/
theorem legacyRxCipher_next {p : Primitive} {s t : State} (h : legacyRxCipher p s = .next t) :
    ((s.n < 8 ∨ s.n % 8 ≠ 0) ∧ t = s.failed .integrity) ∨
    ∃ c r s', 8 ≤ s.n ∧ s.n % 8 = 0 ∧ s.readBuf 0 s.n = .ok c ∧
      r = cbcDec s.params.blockFns p s.pkey.val (zeros 8) c ∧ s' = (s.writeBuf 0 r.1).setIv r.2 ∧
      ((findPayload r.1 (fun x => le16 (crc16Of s.params x)) (s.n - 9) (s.n - 2) = none ∧
        t = s'.failed .integrity) ∨
      ∃ L, findPayload r.1 (fun x => le16 (crc16Of s.params x)) (s.n - 9) (s.n - 2) = some L ∧
        t = (s'.setLen L).succeeded) := by
  unfold legacyRxCipher at h; split at h
  · exact .inl ⟨‹_›, by simpa using h⟩
  · rename_i hn
    push Not at hn
    obtain ⟨c, hc, h⟩ := withBuf_next.1 h
    refine .inr ⟨c, _, _, hn.1, hn.2, hc, rfl, rfl, ?_⟩
    dsimp only at h
    split at h
    · exact .inr ⟨_, ‹_›, by simpa using h⟩
    · exact .inl ⟨‹_›, by simpa using h⟩

/-- Everything DTX_MAC can do (spec/44_default_wrapper.md R301). -/
theorem defaultTxMac_next {p : Primitive} {s t : State} (h : defaultTxMac p s = .next t) :
    (¬ s.fits (s.n + 8) ∧ t = s.failed .length) ∨
    ∃ x, s.fits (s.n + 8) ∧ s.readBuf 0 s.n = .ok x ∧
      t = (((s.writeBuf s.n (s.cmac p (s.ivB (blockSize p)) x).1).setLen (s.n + 8)).setIv
        (s.cmac p (s.ivB (blockSize p)) x).2).succeeded := by
  rcases whenFits_next h with h | ⟨hf, h⟩
  · exact .inl h
  · obtain ⟨x, hx, h⟩ := withBuf_next.1 h
    exact .inr ⟨x, hf, hx, by simpa using h⟩

/-- Everything DTX_CIPHER can do (spec/44_default_wrapper.md R302). -/
theorem defaultTxCipher_next {p : Primitive} {s t : State} (h : defaultTxCipher p s = .next t) :
    (∃ total, total = s.n + 4 + defaultPad (blockSize p) s.o (s.n + 4) ∧
      ((¬ s.fits total ∧ t = s.failed .length) ∨
      ∃ x r, s.fits total ∧ s.readBuf 0 s.n = .ok x ∧
        r = cbcEnc s.params.blockFns p s.pkey.val (s.ivB (blockSize p))
          ((defaultPlain s.params (blockSize p) s.o x).drop s.o) ∧
        t = (((s.writeBuf s.o r.1).setLen total).setIv (s.cmac p r.2 r.1).2).succeeded)) := by
  refine ⟨_, rfl, ?_⟩
  rcases whenFits_next h with h | ⟨hf, h⟩
  · exact .inl h
  · obtain ⟨x, hx, h⟩ := withBuf_next.1 h
    exact .inr ⟨x, _, hf, hx, rfl, by simpa using h⟩

/-- Everything DRX_MAC can do (spec/44_default_wrapper.md R310). -/
theorem defaultRxMac_next {p : Primitive} {s t : State} (h : defaultRxMac p s = .next t) :
    (s.n < 8 ∧ t = s.failed .integrity) ∨
    ∃ x r, 8 ≤ s.n ∧ s.readBuf 0 s.n = .ok x ∧
      r = s.cmac p (s.ivB (blockSize p)) (x.take (s.n - 8)) ∧
      ((r.1 ≠ x.drop (s.n - 8) ∧ t = (s.setIv r.2).failed .integrity) ∨
      (r.1 = x.drop (s.n - 8) ∧ t = ((s.setIv r.2).setLen (s.n - 8)).succeeded)) := by
  unfold defaultRxMac at h; split at h
  · exact .inl ⟨‹_›, by simpa using h⟩
  · rename_i hn
    obtain ⟨x, hx, h⟩ := withBuf_next.1 h
    refine .inr ⟨x, _, by omega, hx, rfl, ?_⟩
    dsimp only at h
    split at h
    · exact .inl ⟨‹_›, by simpa using h⟩
    · exact .inr ⟨not_not.1 ‹_›, by simpa using h⟩

/-- Everything DRX_CIPHER can do (spec/44_default_wrapper.md R311). -/
theorem defaultRxCipher_next {p : Primitive} {status : Option Byte} {s t : State}
    (h : defaultRxCipher p status s = .next t) :
    ((s.n < blockSize p ∨ s.n % blockSize p ≠ 0) ∧ t = s.failed .integrity) ∨
    ∃ c r s', blockSize p ≤ s.n ∧ s.n % blockSize p = 0 ∧ s.readBuf 0 s.n = .ok c ∧
      r = cbcDec s.params.blockFns p s.pkey.val (s.ivB (blockSize p)) c ∧
      s' = (s.writeBuf 0 r.1).setIv r.2 ∧
      ((findPayload r.1 (fun x => le32 (crc32Seeded s.params status x))
          (s.n - 4 - (blockSize p - 1)) (s.n - 4) = none ∧ t = s'.failed .integrity) ∨
      ∃ L, findPayload r.1 (fun x => le32 (crc32Seeded s.params status x))
          (s.n - 4 - (blockSize p - 1)) (s.n - 4) = some L ∧ t = (s'.setLen L).succeeded) := by
  unfold defaultRxCipher at h; dsimp only at h; split at h
  · exact .inl ⟨‹_›, by simpa using h⟩
  · rename_i hn
    push Not at hn
    obtain ⟨c, hc, h⟩ := withBuf_next.1 h
    refine .inr ⟨c, _, _, hn.1, hn.2, hc, rfl, rfl, ?_⟩
    split at h
    · exact .inr ⟨_, ‹_›, by simpa using h⟩
    · exact .inl ⟨‹_›, by simpa using h⟩

/-! ### Sessions -/

/-- Everything COMPUTE_CMAC can do (spec/42_cmac.md R246). -/
theorem execComputeCmac_next {s t : State} (h : execComputeCmac s = .next t) :
    (∃ e, e ≠ .none ∧ t = s.failed e) ∨
    ∃ p data, s.session ≠ .unkeyed ∧ factory s.ctype = .default p ∧ s.skv = true ∧ s.rangeOk ∧
      s.readBuf s.o s.n = .ok data ∧
      t = State.succeeded { s.setIv (s.cmac p (s.ivB (blockSize p)) data).2 with
        mac := fitBytes 8 (s.cmac p (s.ivB (blockSize p)) data).1 } := by
  rcases whenKeyed_next h with ⟨_, rfl⟩ | ⟨hk, h⟩
  · exact .inl ⟨.state, by decide, rfl⟩
  · split at h
    · rename_i p hp
      split at h
      · exact .inl ⟨.state, by decide, by simpa using h⟩
      · rename_i hv
        rcases whenRange_next h with ⟨_, rfl⟩ | ⟨hr, h⟩
        · exact .inl ⟨.length, by decide, rfl⟩
        · obtain ⟨data, hd, h⟩ := withBuf_next.1 h
          exact .inr ⟨p, data, hk, hp, by simpa using hv, hr, hd, by simpa using h⟩
    · exact .inl ⟨.unsupported, by decide, by simpa using h⟩
    · exact .inl ⟨.unsupported, by decide, by simpa using h⟩

/-- Everything CMAC_SUBKEYS can do (spec/42_cmac.md R243). -/
theorem execCmacSubkeys_next {s t : State} (h : execCmacSubkeys s = .next t) :
    (∃ e, e ≠ .none ∧ t = s.failed e) ∨
    ∃ p, s.session ≠ .unkeyed ∧ factory s.ctype = .default p ∧ t = (deriveSubkeys p s).succeeded := by
  rcases whenKeyed_next h with ⟨_, rfl⟩ | ⟨hk, h⟩
  · exact .inl ⟨.state, by decide, rfl⟩
  · split at h
    · rename_i p hp
      exact .inr ⟨p, hk, hp, by simpa using h⟩
    · exact .inl ⟨.unsupported, by decide, by simpa using h⟩
    · exact .inl ⟨.unsupported, by decide, by simpa using h⟩

/-- Everything SETUP_KEY can do (spec/45_dispatch.md R331, R332). -/
theorem execSetupKey_next {c : CipherType} {s t : State} (h : execSetupKey c s = .next t) :
    (s.keylen.toNat ≠ keyBytes c ∧ t = s.clearStaging.unbind.failed .keySetup) ∨
    (s.keylen.toNat = keyBytes c ∧
      t = (s.clearStaging.bind c (slice s.key.val 0 (keyBytes c))).succeeded) := by
  unfold execSetupKey at h; split at h
  · exact .inr ⟨‹_›, by simpa using h⟩
  · exact .inl ⟨‹_›, by simpa using h⟩

/-- What SessionStart leaves (spec/45_dispatch.md R334). -/
theorem sessionStart_cases (s : State) :
    (∃ p, factory s.ctype = .default p ∧ sessionStart s =
      { deriveSubkeys p { s with iv := ByteArr.zero 16 } with session := .session }) ∨
    ((∀ p, factory s.ctype ≠ .default p) ∧
      sessionStart s = { s with iv := ByteArr.zero 16, session := .session }) := by
  unfold sessionStart
  split
  · exact .inl ⟨_, ‹_›, rfl⟩
  all_goals rename_i h; exact .inr ⟨by simp [h], rfl⟩

/-! ### The host side -/

/-- Everything an issue can do (spec/30_encoding.md R111, R123). -/
theorem issue_next {s t : State} (h : issue s = .next t) :
    (∃ e, decodeWord s.cmd = .error e ∧ t = s.failed .illegal) ∨
    ∃ i, decodeWord s.cmd = .ok i ∧ exec i s = .next t := by
  unfold issue at h; split at h
  · exact .inr ⟨_, ‹_›, h⟩
  · exact .inl ⟨_, ‹_›, by simpa using h⟩

/-- Everything one event can do (spec/20_memory.md R82-R84; spec/70_reset_and_hazards.md R450). -/
theorem accept_next {e : HostEvent} {s t : State} (h : accept e s = .next t) :
    (∃ addr a v, e = .read addr ∧ windowOffset s.params addr = some a ∧ s.windowRead a = some v ∧
      t = { s with readLog := s.readLog ++ [v] }) ∨
    (∃ addr a v, e = .write addr v ∧ windowOffset s.params addr = some a ∧ a ≠ issueOffset ∧
      t = s.windowWrite a v) ∨
    (∃ addr v, e = .write addr v ∧ windowOffset s.params addr = some issueOffset ∧
      issue (s.windowWrite issueOffset v) = .next t) ∨
    (e = .reset ∧ t = acceptReset s) := by
  cases e with
  | read addr =>
    simp only [accept, acceptRead] at h
    split at h
    · cases h
    · rename_i a ha
      split at h
      · rename_i v hv
        cases h
        exact .inl ⟨addr, a, v, rfl, ha, hv, rfl⟩
      · cases h
  | write addr v =>
    simp only [accept, acceptWrite] at h
    split at h
    · cases h
    · rename_i a ha
      split at h
      · rename_i he
        subst he
        exact .inr (.inr (.inl ⟨addr, v, rfl, ha, h⟩))
      · rename_i he
        cases h
        exact .inr (.inl ⟨addr, a, v, rfl, ha, he, rfl⟩)
  | wide addr width => simp [accept] at h
  | reset =>
    simp only [accept] at h
    cases h
    exact .inr (.inr (.inr ⟨rfl, rfl⟩))

/-- Everything a step can do: idle, or the next event (spec/20_memory.md R84). -/
theorem step_next {s t : State} (h : step s = .next t) :
    (s.pending = [] ∧ t = s) ∨
    ∃ e rest, s.pending = e :: rest ∧ accept e { s with pending := rest } = .next t := by
  unfold step stepBus at h; split at h
  · rename_i hp
    cases h
    exact .inl ⟨hp, rfl⟩
  · exact .inr ⟨_, _, ‹_›, h⟩

end Sys2Proof.Machine
end

