-- ==== Sys2Proof/Laws/PerInstr.lean ====
section
/-! SUPPORT. Facts about every command as syntax, one lemma per constructor. -/

namespace Sys2Proof.Laws

/-- A command word with an operand: the operand meets none of the bits outside IMM8. -/
theorem withImm8_and (bits : BitVec 32) (v : Byte) :
    withImm8 bits v &&& 0xFF00FFFF = bits &&& 0xFF00FFFF := by
  have h : (v.setWidth 32 <<< 16) &&& (0xFF00FFFF : BitVec 32) = 0 := by
    revert v; decide +kernel
  rw [withImm8, BitVec.and_comm, BitVec.and_or_distrib_left, BitVec.and_comm _ (v.setWidth 32 <<< 16), h]
  simp [BitVec.and_comm]

/-- The reserved fields RSV0 and RSV1 of a command word are zero (spec/30_encoding.md R112). -/
def ReservedBitsClear.Statement (i : Instr) : Prop := encodeWord i &&& 0xFF00F800 = 0

/-- RSV0 and RSV1 lie outside IMM8. -/
theorem reserved_of_withImm8 (bits : BitVec 32) (v : Byte) (h : bits &&& 0xFF00F800 = 0) :
    withImm8 bits v &&& 0xFF00F800 = 0 := by
  have e : (0xFF00F800 : BitVec 32) = 0xFF00FFFF &&& 0xFF00F800 := by decide
  rw [e, ← BitVec.and_assoc, withImm8_and, BitVec.and_assoc, ← e, h]

theorem ReservedBitsClear.setupKey (t : CipherType) : ReservedBitsClear.Statement (.setupKey t) :=
  reserved_of_withImm8 _ _ (by decide)
theorem ReservedBitsClear.initSession : ReservedBitsClear.Statement .initSession := by
  unfold ReservedBitsClear.Statement; decide
theorem ReservedBitsClear.reinitSession : ReservedBitsClear.Statement .reinitSession := by
  unfold ReservedBitsClear.Statement; decide
theorem ReservedBitsClear.doCryptoEnc : ReservedBitsClear.Statement .doCryptoEnc := by
  unfold ReservedBitsClear.Statement; decide
theorem ReservedBitsClear.doCryptoDec : ReservedBitsClear.Statement .doCryptoDec := by
  unfold ReservedBitsClear.Statement; decide
theorem ReservedBitsClear.doCryptoMac : ReservedBitsClear.Statement .doCryptoMac := by
  unfold ReservedBitsClear.Statement; decide
theorem ReservedBitsClear.cmacSubkeys : ReservedBitsClear.Statement .cmacSubkeys := by
  unfold ReservedBitsClear.Statement; decide
theorem ReservedBitsClear.computeCmac : ReservedBitsClear.Statement .computeCmac := by
  unfold ReservedBitsClear.Statement; decide
theorem ReservedBitsClear.prepareTxPlain : ReservedBitsClear.Statement .prepareTxPlain := by
  unfold ReservedBitsClear.Statement; decide
theorem ReservedBitsClear.prepareTxMac : ReservedBitsClear.Statement .prepareTxMac := by
  unfold ReservedBitsClear.Statement; decide
theorem ReservedBitsClear.prepareTxCipher : ReservedBitsClear.Statement .prepareTxCipher := by
  unfold ReservedBitsClear.Statement; decide
theorem ReservedBitsClear.confirmRxPlain : ReservedBitsClear.Statement .confirmRxPlain := by
  unfold ReservedBitsClear.Statement; decide
theorem ReservedBitsClear.confirmRxMac : ReservedBitsClear.Statement .confirmRxMac := by
  unfold ReservedBitsClear.Statement; decide
theorem ReservedBitsClear.confirmRxCipher : ReservedBitsClear.Statement .confirmRxCipher := by
  unfold ReservedBitsClear.Statement; decide
theorem ReservedBitsClear.confirmRxCipherS (status : Byte) : ReservedBitsClear.Statement (.confirmRxCipherS status) :=
  reserved_of_withImm8 _ _ (by decide)
theorem ReservedBitsClear.crc16 : ReservedBitsClear.Statement .crc16 := by
  unfold ReservedBitsClear.Statement; decide
theorem ReservedBitsClear.crc32 : ReservedBitsClear.Statement .crc32 := by
  unfold ReservedBitsClear.Statement; decide
theorem ReservedBitsClear.crc32S (status : Byte) : ReservedBitsClear.Statement (.crc32S status) :=
  reserved_of_withImm8 _ _ (by decide)
theorem ReservedBitsClear.padlenZero (b : Byte) : ReservedBitsClear.Statement (.padlenZero b) :=
  reserved_of_withImm8 _ _ (by decide)
theorem ReservedBitsClear.padlenCmac (b : Byte) : ReservedBitsClear.Statement (.padlenCmac b) :=
  reserved_of_withImm8 _ _ (by decide)
theorem ReservedBitsClear.rotate (k : Byte) : ReservedBitsClear.Statement (.rotate k) :=
  reserved_of_withImm8 _ _ (by decide)
theorem ReservedBitsClear.release : ReservedBitsClear.Statement .release := by
  unfold ReservedBitsClear.Statement; decide

end Sys2Proof.Laws
end

