-- ==== Sys2Proof/Tests/Slice0.lean ====
section
/-! SUPPORT. The model's own tests: the well-formedness smoke test, one decoded word per command written field by
field from spec/30_encoding.md R112, one or two steps per command with results from spec/95_test_vectors.md, and
for every statement with hypotheses a concrete state and operands that meet them together. -/

open Sys2Proof Sys2Proof.Machine

namespace Sys2Proof.Tests

-- Elaborated one after another: the kernel evaluations below need no threads of their own.
set_option Elab.async false

/-! ### Builders -/

/-- A string of bytes from numbers. -/
def bytes (l : List Nat) : List Byte := l.map (BitVec.ofNat 8)

/-- Key KD of spec/95_test_vectors.md. -/
def keyD : List Byte := bytes [0x01, 0x23, 0x45, 0x67, 0x89, 0xAB, 0xCD, 0xEF]
/-- Key K2. -/
def key2 : List Byte :=
  bytes [0x00, 0x11, 0x22, 0x33, 0x44, 0x55, 0x66, 0x77, 0x88, 0x99, 0xAA, 0xBB, 0xCC, 0xDD, 0xEE, 0xFF]
/-- Key K3. -/
def key3 : List Byte :=
  keyD ++ bytes [0x23, 0x45, 0x67, 0x89, 0xAB, 0xCD, 0xEF, 0x01, 0x45, 0x67, 0x89, 0xAB, 0xCD, 0xEF, 0x01, 0x23]
/-- Key KA. -/
def keyA : List Byte := bytes (List.range 16)

/-- Reset, then family `c` with key `K` in session state `v`, BUF[0..) = `x`, LEN its length, OFS = `o`. -/
def keyed (c : CipherType) (v : Session) (K x : List Byte) (o : Nat) : State :=
  { State.reset with
    ctype := c, session := v, pkey := fitBytes 24 K, mem := Memory.writeRange [] bufBase x
    len := BitVec.ofNat 16 x.length, ofs := BitVec.ofNat 16 o }

/-- A session of DES under KD with message `x`. -/
def sessionD (x : List Byte) (o : Nat) : State := keyed .des .session keyD x o
/-- A session of 2K3DES under K2 with message `x`. -/
def session2 (x : List Byte) (o : Nat) : State := keyed .des3_2k .session key2 x o
/-- A session of 3K3DES under K3 with message `x`. -/
def session3 (x : List Byte) (o : Nat) : State := deriveSubkeys .des3_3k (keyed .des3_3k .session key3 x o)
/-- A session of AES-128 under KA with message `x`. -/
def sessionA (x : List Byte) (o : Nat) : State := deriveSubkeys .aes128 (keyed .aes128 .session keyA x o)
/-- A session of type none with message `x`. -/
def sessionN (x : List Byte) (o : Nat) : State := keyed .none .session [] x o

/-- LEN set past what is stored. -/
def withLen (n : Nat) (s : State) : State := { s with len := BitVec.ofNat 16 n }

/-- The host about to do `e` at a block in state `s`. -/
def about (e : HostEvent) (s : State) : State := { s with pending := [e] }

/-- The command answers a next state of which `P` holds. -/
def leads (r : Result) (P : State → Bool) : Bool :=
  match r with
  | .next t => P t
  | .fault _ => false
  | .refused _ => false

/-- ERR, LEN, BUF[0..n) and the first bytes of IV, of the next state. -/
def gives (r : Result) (e : Err) (n : Nat) (buf iv : List Nat) : Bool :=
  leads r fun t => t.err == e && t.n == n && t.readBuf 0 buf.length == .ok (bytes buf) &&
    t.iv.val.take iv.length == bytes iv

/-! ### Well-formedness (spec/30_encoding.md R119, R120) -/

theorem test_padlen_zero_of_0_ill_formed : (Instr.padlenZero 0).wellFormed = false := by decide
theorem test_padlen_cmac_of_0_ill_formed : (Instr.padlenCmac 0).wellFormed = false := by decide
theorem test_padlen_zero_of_1_well_formed : (Instr.padlenZero 1).wellFormed = true := by decide

/-! ### Decoding, one word per command (spec/30_encoding.md R112, R115-R119) -/

/-- RSV1, IMM8, RSV0, SV, MODE, OPC, from bit 31 down. -/
def word (imm8 : Byte) (sv : BitVec 1) (mode : BitVec 2) (opc : Byte) : BitVec 32 :=
  0b00000000#8 ++ imm8 ++ 0b00000#5 ++ sv ++ mode ++ opc

theorem test_decode_setup_key_none : decodeWord (word 0 0 0b00 0x01) = .ok (.setupKey .none) := by decide
theorem test_decode_setup_key_des : decodeWord (word 1 0 0b00 0x01) = .ok (.setupKey .des) := by decide
theorem test_decode_setup_key_2k : decodeWord (word 2 0 0b00 0x01) = .ok (.setupKey .des3_2k) := by decide
theorem test_decode_setup_key_3k : decodeWord (word 3 0 0b00 0x01) = .ok (.setupKey .des3_3k) := by decide
theorem test_decode_setup_key_aes : decodeWord (word 4 0 0b00 0x01) = .ok (.setupKey .aes128) := by decide
theorem test_decode_init_session : decodeWord (word 0 0 0b00 0x02) = .ok .initSession := by decide
theorem test_decode_reinit_session : decodeWord (word 0 0 0b00 0x03) = .ok .reinitSession := by decide
theorem test_decode_do_crypto_enc : decodeWord (word 0 0 0b00 0x04) = .ok .doCryptoEnc := by decide
theorem test_decode_do_crypto_dec : decodeWord (word 0 0 0b01 0x04) = .ok .doCryptoDec := by decide
theorem test_decode_do_crypto_mac : decodeWord (word 0 0 0b10 0x04) = .ok .doCryptoMac := by decide
theorem test_decode_cmac_subkeys : decodeWord (word 0 0 0b00 0x05) = .ok .cmacSubkeys := by decide
theorem test_decode_compute_cmac : decodeWord (word 0 0 0b00 0x06) = .ok .computeCmac := by decide
theorem test_decode_prepare_tx_plain : decodeWord (word 0 0 0b00 0x07) = .ok .prepareTxPlain := by decide
theorem test_decode_prepare_tx_mac : decodeWord (word 0 0 0b01 0x07) = .ok .prepareTxMac := by decide
theorem test_decode_prepare_tx_cipher : decodeWord (word 0 0 0b10 0x07) = .ok .prepareTxCipher := by decide
theorem test_decode_confirm_rx_plain : decodeWord (word 0 0 0b00 0x08) = .ok .confirmRxPlain := by decide
theorem test_decode_confirm_rx_mac : decodeWord (word 0 0 0b01 0x08) = .ok .confirmRxMac := by decide
theorem test_decode_confirm_rx_cipher : decodeWord (word 0 0 0b10 0x08) = .ok .confirmRxCipher := by decide
theorem test_decode_confirm_rx_cipher_s :
    decodeWord (word 0b11111111 1 0b10 0x08) = .ok (.confirmRxCipherS 0xFF) := by decide
theorem test_decode_crc16 : decodeWord (word 0 0 0b00 0x09) = .ok .crc16 := by decide
theorem test_decode_crc32 : decodeWord (word 0 0 0b00 0x0A) = .ok .crc32 := by decide
theorem test_decode_crc32_s : decodeWord (word 0b10010000 1 0b00 0x0A) = .ok (.crc32S 0x90) := by decide
theorem test_decode_padlen_zero : decodeWord (word 0b00000001 0 0b00 0x0B) = .ok (.padlenZero 1) := by decide
theorem test_decode_padlen_cmac : decodeWord (word 0b11111111 0 0b01 0x0B) = .ok (.padlenCmac 255) := by decide
theorem test_decode_rotate : decodeWord (word 0b11111111 0 0b00 0x0C) = .ok (.rotate 255) := by decide
theorem test_decode_release : decodeWord (word 0 0 0b00 0x0D) = .ok .release := by decide

/-- The bytes in the order `ISSUE` writes them (spec/30_encoding.md R128; spec/95_test_vectors.md 2.8). -/
theorem test_decode_bytes : decode [0x01, 0x00, 0x04, 0x00] = .ok (.setupKey .aes128, []) := by decide
theorem test_encode_bytes : encode (.confirmRxCipherS 0x90) = [0x08, 0x06, 0x90, 0x00] := by decide

/-- The illegal words of spec/95_test_vectors.md 2.1. -/
theorem test_decode_rejects :
    [0x00000000, 0x0000000E, 0x000000FF].all
      (fun w => decodeWord w == .error .reservedOpcode) = true ∧
    [0x00000304, 0x0000020B, 0x00010002, 0x00000408, 0x00000508, 0x00030007, 0x00010609, 0x0100000D,
      0x0000080D].all (fun w => decodeWord w == .error .noRow) = true ∧
    [0x00050001, 0x0000000B].all (fun w => decodeWord w == .error .badOperand) = true := by decide

/-! ### Key setup and sessions (spec/95_test_vectors.md 1.6, 1.7, 2.6) -/

theorem test_setup_key_binds : leads
    (exec (.setupKey .des) { State.reset with key := fitBytes 24 keyD, keylen := 8 })
    (fun t => t.status == 0x11 && t.err == .none && t.ctype == .des && t.pkey.val == keyD ++ zeros 16 &&
      t.keylen == 0 && t.key.val == zeros 24) = true := by decide +kernel
theorem test_setup_key_of_15_bytes_fails : leads
    (exec (.setupKey .aes128) { sessionA [] 0 with keylen := 15 })
    (fun t => t.status == 0x00 && t.err == .keySetup && t.ctype == .none && t.keylen == 0 &&
      t.sk1.val == zeros 16) = true := by decide +kernel
theorem test_init_session_derives : leads
    (exec .initSession (keyed .aes128 .keyed keyA (List.replicate 16 0xAA) 0))
    (fun t => t.status == 0x16 && t.iv.val == zeros 16 && t.sk1.val == bytes
      [0x8D, 0x42, 0x76, 0x6F, 0x0F, 0x1E, 0xB7, 0x04, 0xDE, 0x9F, 0x02, 0xC5, 0x43, 0x91, 0xB0, 0x75])
      = true := by decide +kernel
theorem test_init_session_degenerate : leads
    (exec .initSession (keyed .des3_2k .keyed (keyD ++ keyD) (List.replicate 16 0xAA) 0))
    (fun t => t.status == 0x1A && t.skv == false) = true := by decide +kernel
theorem test_reinit_session_keeps_degen : leads
    (exec .reinitSession { keyed .des3_2k .keyed key2 [] 0 with degen := true })
    (fun t => t.status == 0x1A) = true := by decide +kernel
theorem test_release_from_session : leads (exec .release (sessionA [1, 2, 3] 0))
    (fun t => t.status == 0x10 && t.ctype == .none && t.n == 3 && t.pkey.val == zeros 24) = true := by
  decide +kernel

/-! ### DO_CRYPTO (spec/95_test_vectors.md 2.2) -/

theorem test_do_crypto_enc_ofs_1 : gives
    (exec .doCryptoEnc (keyed .des .keyed keyD (bytes [0xEE, 0, 1, 2, 3, 4, 5, 6, 7]) 1)) .none 9
    [0xEE, 0x32, 0x60, 0x26, 0x6C, 0x2C, 0xF2, 0x02, 0xE2]
    [0x32, 0x60, 0x26, 0x6C, 0x2C, 0xF2, 0x02, 0xE2, 0] = true := by decide +kernel
theorem test_do_crypto_enc_partial_block : leads
    (exec .doCryptoEnc (withLen 7 (keyed .des .keyed keyD [] 0)))
    (fun t => t.err == .length && t.status == 0x01) = true := by decide +kernel
theorem test_do_crypto_dec_2k : gives
    (exec .doCryptoDec (keyed .des3_2k .keyed key2 (bytes
      [0x5D, 0x99, 0x07, 0x87, 0xB0, 0x67, 0x37, 0x87, 0xEE, 0x2E, 0x57, 0x95, 0xFD, 0x34, 0x07, 0x23]) 0))
    .none 16 [0, 1, 2, 3, 4, 5, 6, 7, 8, 9, 10, 11, 12, 13, 14, 15]
    [0xEE, 0x2E, 0x57, 0x95, 0xFD, 0x34, 0x07, 0x23] = true := by decide +kernel
theorem test_do_crypto_dec_aes : gives
    (exec .doCryptoDec (keyed .aes128 .keyed keyA (bytes
      [0x0A, 0x94, 0x0B, 0xB5, 0x41, 0x6E, 0xF0, 0x45, 0xF1, 0xC3, 0x94, 0x58, 0xC6, 0x53, 0xEA, 0x5A]) 0))
    .none 16 [0, 1, 2, 3, 4, 5, 6, 7, 8, 9, 10, 11, 12, 13, 14, 15]
    [0x0A, 0x94, 0x0B, 0xB5, 0x41, 0x6E, 0xF0, 0x45, 0xF1, 0xC3, 0x94, 0x58, 0xC6, 0x53, 0xEA, 0x5A]
    = true := by decide +kernel
theorem test_do_crypto_mac_3k : gives
    (exec .doCryptoMac (keyed .des3_3k .keyed key3 (bytes (List.range 16)) 0)) .none 16
    [0x30, 0x32, 0x92, 0x53, 0xBD, 0x29, 0x65, 0x40, 0x72, 0xA1, 0xC2, 0x7A, 0x3B, 0x48, 0x3E, 0xBC]
    [0x72, 0xA1, 0xC2, 0x7A, 0x3B, 0x48, 0x3E, 0xBC] = true := by decide +kernel

/-! ### CMAC (spec/95_test_vectors.md 2.3) -/

theorem test_cmac_subkeys_3k : leads (exec .cmacSubkeys (keyed .des3_3k .keyed key3 [] 0))
    (fun t => t.status == 0x15 &&
      t.sk1.val == bytes [0x9D, 0x74, 0xE7, 0x39, 0x33, 0x17, 0x96, 0xC0] ++ zeros 8 &&
      t.sk2.val == bytes [0x3A, 0xE9, 0xCE, 0x72, 0x66, 0x2F, 0x2D, 0x9B] ++ zeros 8) = true := by
  decide +kernel
theorem test_cmac_subkeys_unsupported : leads (exec .cmacSubkeys (keyed .des3_2k .keyed key2 [] 0))
    (fun t => t.err == .unsupported) = true := by decide +kernel
theorem test_compute_cmac_aes : leads (exec .computeCmac (sessionA [1, 2, 3] 0))
    (fun t => t.mac.val == bytes [0x65, 0x4D, 0xB2, 0x3B, 0xC3, 0x64, 0x34, 0xDE] &&
      t.iv.val == bytes [0x65, 0x4D, 0xB2, 0x3B, 0xC3, 0x64, 0x34, 0xDE, 0x42, 0x6B, 0x26, 0x29, 0x6D, 0x88,
        0x18, 0xF2]) = true := by decide +kernel
theorem test_compute_cmac_without_subkeys : leads (exec .computeCmac (keyed .aes128 .keyed keyA [] 0))
    (fun t => t.err == .state) = true := by decide +kernel

/-! ### Transmit (spec/95_test_vectors.md 2.4-2.6) -/

theorem test_prepare_tx_plain_of_type_none : leads (exec .prepareTxPlain (withLen 300 (sessionN [] 0)))
    (fun t => t.err == .none && t.n == 300) = true := by decide +kernel
theorem test_prepare_tx_mac_legacy_ofs_1 : gives (exec .prepareTxMac (session2 (bytes [0x90, 1, 2, 3]) 1))
    .none 8 [0x90, 1, 2, 3, 0xB5, 0xA4, 0x39, 0x3F] [0xB5, 0xA4, 0x39, 0x3F, 0x8E, 0x93, 0xDC, 0xC7]
    = true := by decide +kernel
theorem test_prepare_tx_mac_default_ofs_1 : gives (exec .prepareTxMac (session3 (bytes [0x5A, 1, 2, 3]) 1))
    .none 12 [0x5A, 1, 2, 3, 0xFD, 0xF6, 0xBC, 0x06, 0x52, 0xB9, 0x34, 0x7E]
    [0xFD, 0xF6, 0xBC, 0x06, 0x52, 0xB9, 0x34, 0x7E, 0] = true := by decide +kernel
theorem test_prepare_tx_cipher_legacy : gives (exec .prepareTxCipher (sessionD (bytes [0, 1, 2, 3, 4, 5]) 0))
    .none 8 [0xBD, 0x0E, 0x21, 0xD5, 0x43, 0xF5, 0x24, 0x33]
    [0xBD, 0x0E, 0x21, 0xD5, 0x43, 0xF5, 0x24, 0x33] = true := by decide +kernel
theorem test_prepare_tx_cipher_default : gives (exec .prepareTxCipher (sessionA (bytes [0x5A, 1, 2, 3]) 1))
    .none 17 [0x5A, 0x76, 0x0A, 0xF8, 0x06, 0x11, 0xB9, 0x2D, 0x3A, 0x10, 0x78, 0xE7, 0xA3, 0x84, 0xF0, 0x7A,
      0x14] [0xBE, 0x7E, 0xD6, 0xAE, 0x78, 0x7D, 0xD5, 0x54] = true := by decide +kernel

/-! ### Receive (spec/95_test_vectors.md 2.4, 2.5) -/

theorem test_confirm_rx_plain_without_session : leads (exec .confirmRxPlain (keyed .none .keyed [] [] 0))
    (fun t => t.err == .state) = true := by decide +kernel
theorem test_confirm_rx_mac_legacy_mismatch : gives
    (exec .confirmRxMac (session2 (bytes [1, 2, 3, 0xB5, 0xA4, 0x39, 0x3E]) 0)) .integrity 7
    [1, 2, 3, 0xB5, 0xA4, 0x39, 0x3E] [0xB5, 0xA4, 0x39, 0x3F, 0x8E, 0x93, 0xDC, 0xC7] = true := by
  decide +kernel
theorem test_confirm_rx_mac_default_match : gives
    (exec .confirmRxMac (sessionA (bytes [1, 2, 3, 0x65, 0x4D, 0xB2, 0x3B, 0xC3, 0x64, 0x34, 0xDE]) 0)) .none 3
    [1, 2, 3] [0x65, 0x4D, 0xB2, 0x3B, 0xC3, 0x64, 0x34, 0xDE, 0x42] = true := by decide +kernel
theorem test_confirm_rx_cipher_legacy_mismatch : gives
    (exec .confirmRxCipher (session2 (bytes [0x4A, 0x25, 0x64, 0x47, 0xA9, 0x4F, 0xC3, 0x6B]) 0)) .integrity 8
    [0xA9, 0xED, 0xFD, 0xCE, 0x12, 0x7A, 0x25, 0xC0] [0x4A, 0x25, 0x64, 0x47, 0xA9, 0x4F, 0xC3, 0x6B]
    = true := by decide +kernel
theorem test_confirm_rx_cipher_default : gives
    (exec .confirmRxCipher (session3 (bytes [0xAF, 0x4F, 0x58, 0x16, 0x83, 0xEF, 0xC4, 0x0C]) 0)) .none 3
    [1, 2, 3] [0xAF, 0x4F, 0x58, 0x16, 0x83, 0xEF, 0xC4, 0x0C] = true := by decide +kernel
/-- The response R of spec/95_test_vectors.md 2.5. -/
def responseR : List Byte := bytes
  [0xA4, 0x8E, 0x98, 0x89, 0x1D, 0x95, 0x9E, 0x29, 0x41, 0x9E, 0x02, 0x6F, 0xE9, 0x4C, 0x6B, 0xF3]
theorem test_confirm_rx_cipher_s_right_status : leads (exec (.confirmRxCipherS 0x00) (sessionA responseR 0))
    (fun t => t.err == .none && t.n == 3) = true := by decide +kernel
theorem test_confirm_rx_cipher_s_wrong_status : leads (exec (.confirmRxCipherS 0x90) (sessionA responseR 0))
    (fun t => t.err == .integrity && t.n == 16) = true := by decide +kernel

/-! ### Integrity helpers (spec/95_test_vectors.md 1.3, 1.4, 2.7) -/

/-- The string "123456789". -/
def digits : List Byte := bytes [0x31, 0x32, 0x33, 0x34, 0x35, 0x36, 0x37, 0x38, 0x39]
theorem test_crc16_digits : leads (exec .crc16 (keyed .none .unkeyed [] digits 0))
    (fun t => t.result == 0x40FA && t.status == 0x10) = true := by decide +kernel
theorem test_crc16_len_300 : leads (exec .crc16 { withLen 300 State.reset with result := 5 })
    (fun t => t.err == .length && t.result == 5) = true := by decide +kernel
theorem test_crc32_digits : leads (exec .crc32 (keyed .none .unkeyed [] digits 0))
    (fun t => t.result == 0xCBF43926) = true := by decide +kernel
theorem test_crc32_s : leads (exec (.crc32S 0x90) (keyed .none .unkeyed [] [1, 2, 3] 0))
    (fun t => t.result == 0x36F967B7) = true := by decide +kernel
theorem test_padlen_zero : leads (exec (.padlenZero 2) (withLen 65535 State.reset))
    (fun t => t.result == 65536) = true := by decide +kernel
theorem test_padlen_cmac : leads (exec (.padlenCmac 16) State.reset)
    (fun t => t.result == 16) = true := by decide +kernel
theorem test_rotate_from_ofs : gives (exec (.rotate 1) (keyed .none .unkeyed [] (bytes [9, 1, 2, 3, 4]) 1))
    .none 5 [9, 2, 3, 4, 1] [] = true := by decide +kernel
theorem test_rotate_of_nothing : leads (exec (.rotate 5) State.reset)
    (fun t => t.err == .none && t.mem == []) = true := by decide +kernel

/-! ### The host interface (spec/95_test_vectors.md 2.8) -/

theorem test_key_reads_zero : leads
    (step (about (.read 0x40) { State.reset with key := fitBytes 24 [0xAA] })) (fun t => t.readLog == [0])
    = true := by decide +kernel
theorem test_len_little_endian : leads (step (about (.write 0x09 0x12) { State.reset with len := 0x34 }))
    (fun t => t.len == 0x1234) = true := by decide +kernel
theorem test_issue_from_cmd : leads
    (step (State.withFetchWord { State.reset with keylen := 16 } 32 0x00040001))
    (fun t => t.cmd == 0x00040001 && t.status == 0x11 && t.pending == []) = true := by decide +kernel
theorem test_host_word : decodeTableWord 32 0x00900608 = some (.confirmRxCipherS 0x90) := by decide

/-! ### Witnesses: for every statement with hypotheses, states and operands that meet them together -/

theorem witness_DecodeOfEncodeIsTheCommand :
    (Instr.padlenZero 1).wellFormed = true ∧ (Instr.setupKey .aes128).wellFormed = true := by decide
theorem witness_EncodeOfDecodeIsTheWord : decodeWord 0x00FF000C = .ok (.rotate 255) := by decide

/-- The host about to write 0 to CMD byte 3 of a block whose CMD holds `w`. -/
def aboutToIssue (w : BitVec 32) (s : State) : State := about (.write (s.params.base + 3) 0) { s with cmd := w }

theorem witness_IllegalWordRaisesIllegal_opcode :
    (aboutToIssue 0x0E State.reset).pending = .write (State.reset.params.base + 3) 0 :: [] ∧
    setByteOfWord (aboutToIssue 0x0E State.reset).cmd 3 0 = 0x0E ∧ setByteOfWord State.reset.cmd 3 0 = 0x00 ∧
    (0x0E : Byte) ≤ fieldOpc 0x0E ∧ fieldOpc 0x00 = 0x00 := by decide +kernel
theorem witness_IllegalWordRaisesIllegal_row :
    setByteOfWord (aboutToIssue 0x0304 State.reset).cmd 3 0 = 0x0304 ∧
    ∀ r ∈ decodeTable, 0x0304 &&& r.mask ≠ r.bits := by decide +kernel
theorem witness_IllegalWordRaisesIllegal_type :
    setByteOfWord (aboutToIssue 0x00050001 State.reset).cmd 3 0 = 0x00050001 ∧
    (0x00050001 : BitVec 32) &&& 0xFF00FFFF = 0x00000001 ∧ (5 : Byte) ≤ fieldImm8 0x00050001 := by decide +kernel
theorem witness_IllegalWordRaisesIllegal_padlen :
    setByteOfWord (aboutToIssue 0x0B State.reset).cmd 3 0 = 0x0B ∧
    setByteOfWord (aboutToIssue 0x010B State.reset).cmd 3 0 = 0x010B ∧
    (0x0B : BitVec 32) &&& 0xFF00FFFF = 0x0B ∧ (0x010B : BitVec 32) &&& 0xFF00FFFF = 0x010B ∧
    fieldImm8 0x0B = 0 ∧ fieldImm8 0x010B = 0 := by decide +kernel
theorem witness_StepRunsTheDecodedCommand :
    (aboutToIssue 0x0D State.reset).pending = .write (State.reset.params.base + 3) 0 :: [] ∧
    decodeWord (setByteOfWord (aboutToIssue 0x0D State.reset).cmd 3 0) = .ok .release := by decide +kernel
theorem witness_IssuedWordRuns : (Instr.padlenCmac 255).wellFormed = true := by decide

/-- Reset with the window at bus address 4. -/
def atBase4 : State := State.resetWith { Params.standard with base := 4 }
theorem witness_IdleRefusalAndWindow :
    atBase4.pending = [] ∧ (about (.wide 4 4) atBase4).pending = .wide 4 4 :: [] ∧
    3 < atBase4.params.base ∧ atBase4.params.base + 0x10000 ≤ 0x10004 ∧
    (about (.read 3) atBase4).pending = .read 3 :: [] ∧
    (about (.write 0x10004 7) atBase4).pending = .write 0x10004 7 :: [] := by decide +kernel
theorem witness_WindowReadsByOffset :
    (sessionA [1] 0).windowRead 0x04 = some 0x06 ∧ (sessionA [1] 0).windowRead 0x100 = some 1 ∧
    (sessionA [1] 0).windowRead 0xFFFF = some 0 := by decide +kernel
theorem witness_HostReadHasNoSideEffect :
    (about (.read (4 + 0xFFFF)) atBase4).pending = .read (atBase4.params.base + 0xFFFF) :: [] ∧
    (about (.read (4 + 0xFFFF)) atBase4).windowRead 0xFFFF = some 0 := by decide +kernel
theorem witness_HostWriteChangesOneByte :
    [0x0000, 0x0002, 0x0008, 0x000B, 0x0040, 0x0057, 0x0058, 0x0100, 0x01FF, 0x0200, 0xFFFF].all (fun a =>
      decide (a < 0x10000) && decide (a ≠ 0x0003) &&
      (about (.write (4 + a) 7) atBase4).pending == .write (atBase4.params.base + a) 7 :: []) = true := by
  decide +kernel
theorem witness_HostReadsRevealNoKey :
    (about (.read 0x40) (sessionA [] 0)).pending = .read 0x40 :: [] ∧
    leads (step (about (.read 0x40) (sessionA [] 0))) (fun _ => true) = true := by decide +kernel
theorem witness_ResetInputClearsTheBlock :
    (about .reset (sessionA [1] 0)).pending = .reset :: [] := by decide +kernel

theorem witness_SetupKeyBindsOrUnbinds :
    ({ State.reset with keylen := 24 } : State).keylen.toNat = keyBytes .des3_3k ∧
    State.reset.keylen.toNat ≠ keyBytes .des ∧ State.reset.keylen.toNat = keyBytes .none := by decide +kernel
/-- The smallest block R10 allows: BUF_CAP = 16. -/
def small : Params := { Params.standard with bufCap := 16, cap_ge := by decide, cap_le := by decide }
/-- A keyed AES block whose BUF is full and whose range is empty: every bound at its edge. -/
def fullA : State := { keyed .aes128 .keyed keyA (zeros 16) 16 with params := small }
theorem witness_InitSessionStartsSession :
    fullA.session ≠ .unkeyed ∧ fullA.n ≤ fullA.params.bufCap ∧ fullA.o ≤ fullA.n ∧
    factory fullA.ctype = .default .aes128 := by decide +kernel
theorem witness_ReinitSessionKeepsDegenerate :
    (sessionN [] 0).session ≠ .unkeyed ∧ (sessionN [] 0).n ≤ (sessionN [] 0).params.bufCap ∧
    (sessionN [] 0).o ≤ (sessionN [] 0).n ∧ factory (sessionN [] 0).ctype = .identity := by decide +kernel
theorem witness_SessionStateTransitions :
    leads (exec .initSession fullA) (fun t => t.session == .session && t.err == .none) = true := by
  decide +kernel
theorem witness_StepKeepsInvariant :
    (keyed .des .keyed keyD [7] 0).Inv ∧
    leads (step (keyed .des .keyed keyD [7] 0)) (fun _ => true) = true := by
  refine ⟨⟨?_, ?_, ?_, ?_, ?_, ?_, ?_, ?_, ?_⟩, ?_⟩
  case refine_7 => exact fun h => absurd h (by decide)
  case refine_9 => exact fun h => absurd h (by decide)
  all_goals decide +kernel

theorem witness_BlockFunctionsAreInverse :
    (zeros 24).length = 24 ∧ (zeros 8).length = blockSize .des3_3k ∧ (zeros 16).length = blockSize .aes128 := by
  decide
theorem witness_DegenerateKeyCollapsesToDes :
    (keyD ++ keyD ++ zeros 8).length = 24 ∧
    slice (keyD ++ keyD ++ zeros 8) 0 8 = slice (keyD ++ keyD ++ zeros 8) 8 16 ∧ keyD.length = 8 := by decide
theorem witness_DesIgnoresParityBits :
    ∀ i < 64, i % 8 ≠ 7 →
      (0x0123456789ABCDEF : BitVec 64).getMsbD i = (0x0022446688AACCEE : BitVec 64).getMsbD i := by
  decide +kernel
theorem witness_CbcEncryptionByBlocks :
    8 = blockSize .des ∧ (zeros 24).length = 24 ∧ (zeros 8).length = 8 ∧ (zeros 16).length = 2 * 8 ∧
    (zeros 0).length = 0 * 8 ∧
    cbcEnc .standard .des (zeros 24) (zeros 8) (zeros 0) = ([], zeros 8) := by decide +kernel
theorem witness_CbcDecryptionByBlocks :
    16 = blockSize .aes128 ∧ (zeros 24).length = 24 ∧ (zeros 16).length = 16 ∧ (zeros 32).length = 2 * 16 ∧
    (zeros 0).length = 0 * 16 ∧
    cbcDec .standard .aes128 (zeros 24) (zeros 16) (zeros 0) = ([], zeros 16) := by decide +kernel
theorem witness_CbcRoundTrip :
    (keyD ++ zeros 16).length = 24 ∧ (zeros 8).length = blockSize .des ∧
    (bytes (List.range 8)).length % blockSize .des = 0 ∧
    cbcEnc .standard .des (keyD ++ zeros 16) (zeros 8) (bytes (List.range 8)) =
      (bytes [0x32, 0x60, 0x26, 0x6C, 0x2C, 0xF2, 0x02, 0xE2],
        bytes [0x32, 0x60, 0x26, 0x6C, 0x2C, 0xF2, 0x02, 0xE2]) := by decide +kernel

/-- A keyed DES block with one block of data beyond OFS = 1. -/
def dataD : State := keyed .des .keyed keyD (bytes [0xEE, 0, 1, 2, 3, 4, 5, 6, 7]) 1
theorem witness_DoCryptoTransformsTheRange :
    dataD.session ≠ .unkeyed ∧ primitiveOf dataD.ctype = some .des ∧ dataD.n ≤ dataD.params.bufCap ∧
    dataD.o ≤ dataD.n ∧ (dataD.n - dataD.o) % blockSize .des = 0 ∧
    dataD.readBuf dataD.o dataD.n = .ok (bytes (List.range 8)) := by decide +kernel
theorem witness_DoublingIsShiftWithRb :
    (zeros 8).length = 8 ∧ (List.replicate 16 (0xFF : Byte)).length = 16 := by decide
theorem witness_CmacSubkeysDerivesBoth :
    fullA.session ≠ .unkeyed ∧ factory fullA.ctype = .default .aes128 ∧ 16 = blockSize .aes128 := by
  decide +kernel
theorem witness_SubkeysDependOnKeyAlone :
    fullA.ctype = (sessionA [1] 0).ctype ∧ fullA.pkey = (sessionA [1] 0).pkey ∧
    fullA.params.blockFns = (sessionA [1] 0).params.blockFns ∧ factory fullA.ctype = .default .aes128 ∧
    leads (exec .cmacSubkeys fullA) (fun t => t.ok) = true ∧
    leads (exec .reinitSession (sessionA [1] 0)) (fun t => t.ok) = true := by decide +kernel
theorem witness_CmacFormatPadsAndMasks :
    (zeros 8).length = 8 ∧ (keyD.length ≠ 0 ∧ keyD.length % 8 = 0) ∧
    (([] : List Byte).length = 0 ∧ 0x80 :: zeros 7 = [] ++ 0x80 :: zeros (cmacPadlen 0 8 - 0 - 1)) ∧
    ((zeros 7).length % 8 ≠ 0 ∧ zeros 7 ++ [0x80] = zeros 7 ++ 0x80 :: zeros (cmacPadlen 7 8 - 7 - 1)) := by
  decide +kernel
theorem witness_ComputeCmacWritesMacAndIv :
    (sessionA [1, 2, 3] 1).session ≠ .unkeyed ∧ factory (sessionA [1, 2, 3] 1).ctype = .default .aes128 ∧
    16 = blockSize .aes128 ∧ (sessionA [1, 2, 3] 1).skv = true ∧
    (sessionA [1, 2, 3] 1).n ≤ (sessionA [1, 2, 3] 1).params.bufCap ∧
    (sessionA [1, 2, 3] 1).o ≤ (sessionA [1, 2, 3] 1).n ∧
    (sessionA [1, 2, 3] 1).readBuf 1 3 = .ok [2, 3] := by decide +kernel

theorem witness_PlainModesArePassthrough :
    (sessionN [] 0).session = .session ∧ State.reset.session ≠ .session := by decide
/-- A message that leaves `k` bytes of the smallest buffer. -/
def nearlyFull (k : Nat) : List Byte := List.replicate (16 - k) 0x5A
/-- `s` in the smallest block. -/
def tight (s : State) : State := { s with params := small }
theorem witness_LegacyPrepareTxMacAppendsFourBytes :
    let s := tight (sessionD (nearlyFull 4) 12)
    s.session = .session ∧ factory s.ctype = .legacy .des ∧ s.o ≤ s.n ∧ s.n + 4 ≤ s.params.bufCap ∧
    s.readBuf s.o s.n = .ok [] := by decide +kernel
theorem witness_LegacyPrepareTxCipherEncryptsTail :
    let s := tight (session2 (nearlyFull 3) 8)
    s.session = .session ∧ factory s.ctype = .legacy .des3_2k ∧ s.o ≤ s.n ∧ s.n ≤ s.params.bufCap ∧
    s.readBuf s.o s.n = .ok (List.replicate 5 0x5A) ∧ 8 + (5 + 2 + (8 - (5 + 2) % 8) % 8) ≤ s.params.bufCap := by
  decide +kernel
theorem witness_DefaultPrepareTxMacAppendsCmac8 :
    let s := tight (session3 (nearlyFull 8) 8)
    s.session = .session ∧ factory s.ctype = .default .des3_3k ∧ 8 = blockSize .des3_3k ∧ s.o ≤ s.n ∧
    s.n + 8 ≤ s.params.bufCap ∧ s.readBuf 0 s.n = .ok (nearlyFull 8) := by decide +kernel
theorem witness_DefaultPrepareTxCipherEncryptsAndChains :
    let s := tight (sessionA (nearlyFull 4) 0)
    s.session = .session ∧ factory s.ctype = .default .aes128 ∧ 16 = blockSize .aes128 ∧ s.o ≤ s.n ∧
    s.n ≤ s.params.bufCap ∧ s.readBuf 0 s.n = .ok (nearlyFull 4) ∧
    12 + 4 + (16 - (12 + 4 - 0) % 16) % 16 ≤ s.params.bufCap := by decide +kernel
theorem witness_OneBlockCiphertextLeavesConstantIv :
    factory (sessionA [0x5A, 1, 2, 3] 1).ctype = .default .aes128 ∧
    leads (exec .prepareTxCipher (sessionA [0x5A, 1, 2, 3] 1))
      (fun t => t.ok && t.n == (sessionA [0x5A, 1, 2, 3] 1).o + 16) = true := by decide +kernel

/-- A legacy MAC frame of nothing but its trailer, and a default one. -/
theorem witness_ConfirmRxMacComparesTrailer :
    (sessionD (zeros 4) 0).session = .session ∧ (sessionD (zeros 4) 0).n ≤ (sessionD (zeros 4) 0).params.bufCap ∧
    (sessionD (zeros 4) 0).readBuf 0 4 = .ok (zeros 4) ∧ 4 ≤ (sessionD (zeros 4) 0).n ∧
    factory (sessionD (zeros 4) 0).ctype = .legacy .des ∧
    leads (exec .confirmRxMac (sessionD (zeros 4) 0)) (fun t => t.ok) = true ∧
    (sessionA (zeros 8) 0).session = .session ∧ (sessionA (zeros 8) 0).readBuf 0 8 = .ok (zeros 8) ∧
    8 ≤ (sessionA (zeros 8) 0).n ∧ factory (sessionA (zeros 8) 0).ctype = .default .aes128 ∧
    leads (exec .confirmRxMac (sessionA (zeros 8) 0)) (fun t => t.err == .integrity) = true := by decide +kernel
/-- Legacy: a frame of one block, accepted at length 3. -/
theorem witness_ConfirmRxCipherTakesShortestPayload_legacy :
    let s := sessionD (bytes [0x15, 0x62, 0x84, 0x4F, 0xC3, 0x97, 0xB6, 0x45]) 0
    s.session = .session ∧ s.n ≤ s.params.bufCap ∧ blockSize .des ≤ s.n ∧ s.n % blockSize .des = 0 ∧
    factory s.ctype = .legacy .des ∧
    leads (exec .confirmRxCipher s) (fun t => t.ok && t.n == 3) = true ∧
    leads (exec (.confirmRxCipherS 9) s) (fun t => t.ok && t.n == 3) = true := by decide +kernel
/-- Default: a frame accepted with the right status byte and refused with another, under each
RX_STATUS_SEED. -/
theorem witness_ConfirmRxCipherTakesShortestPayload_default :
    let s := sessionA responseR 0
    s.session = .session ∧ s.n ≤ s.params.bufCap ∧ blockSize .aes128 ≤ s.n ∧ s.n % blockSize .aes128 = 0 ∧
    factory s.ctype = .default .aes128 ∧
    leads (exec (.confirmRxCipherS 0) s) (fun t => t.ok && t.n == 3) = true ∧
    leads (exec .confirmRxCipher s) (fun t => t.err == .integrity) = true ∧
    [RxStatusSeed.seedPrefix, .seedSuffix, .seedIgnore].all (fun q =>
      leads (exec (.confirmRxCipherS 1) { s with params := { s.params with rxStatusSeed := q } })
        (fun t => t.err == .integrity)) = true := by decide +kernel
theorem witness_MalformedReceivedLengthIsIntegrity :
    ((sessionD (zeros 3) 0).session = .session ∧ factory (sessionD (zeros 3) 0).ctype = .legacy .des ∧
      (sessionD (zeros 3) 0).n < 4) ∧
    (factory (sessionA (zeros 7) 0).ctype = .default .aes128 ∧ (sessionA (zeros 7) 0).n < 8) ∧
    ((sessionA (zeros 15) 0).n < blockSize .aes128 ∧ (sessionA (zeros 17) 0).n % blockSize .aes128 ≠ 0) ∧
    (sessionD (zeros 9) 0).n % blockSize .des ≠ 0 := by decide +kernel

/-- A sender's frame read by a receiver in the same session that has not heard it: the hypotheses of a round
trip. -/
def roundTrip (tx rx : Instr) (m : List Byte) (a : State) : Bool :=
  a.o == 0 && a.readBuf 0 a.n == .ok m &&
  leads (exec tx a) fun a' => a'.ok &&
    let r := { a with len := a'.len, mem := a'.mem }
    decide (a'.n ≤ a.params.bufCap) && decide (a'.readBuf 0 a'.n = r.readBuf 0 r.n) &&
    leads (exec rx r) fun t => t.ok && t.len == a.len

theorem witness_LegacyMacRoundTrip :
    factory (session2 [1, 0] 0).ctype = .legacy .des3_2k ∧
    roundTrip .prepareTxMac .confirmRxMac [1, 0] (session2 [1, 0] 0) = true := by decide +kernel
theorem witness_LegacyCipherRoundTrip :
    factory (sessionD [1, 0] 0).ctype = .legacy .des ∧ (sessionD [1, 0] 0).params.crc16XorOut = 0xFFFF ∧
    roundTrip .prepareTxCipher .confirmRxCipher [1, 0] (sessionD [1, 0] 0) = true := by decide +kernel
theorem witness_DefaultMacRoundTrip :
    factory (session3 [] 0).ctype = .default .des3_3k ∧
    roundTrip .prepareTxMac .confirmRxMac [] (session3 [] 0) = true := by decide +kernel
theorem witness_DefaultCipherRoundTrip :
    factory (sessionA [1, 0] 0).ctype = .default .aes128 ∧
    (sessionA [1, 0] 0).params.crc32XorOut = 0xFFFFFFFF ∧
    roundTrip .prepareTxCipher .confirmRxCipher [1, 0] (sessionA [1, 0] 0) = true := by decide +kernel

theorem witness_CrcCommandsWriteResult :
    (sessionN [1, 2] 1).n ≤ (sessionN [1, 2] 1).params.bufCap ∧ (sessionN [1, 2] 1).o ≤ (sessionN [1, 2] 1).n ∧
    (sessionN [1, 2] 1).readBuf 1 2 = .ok [2] := by decide +kernel
theorem witness_PadlenIsLeastMultiple :
    (1 : Byte) ≠ 0 ∧ State.reset.n = 0 ∧ (withLen 65535 State.reset).n ≠ 0 := by decide +kernel
theorem witness_RotateMovesBytesLeft :
    (sessionN [1, 2] 0).n ≤ (sessionN [1, 2] 0).params.bufCap ∧ (sessionN [1, 2] 0).o ≤ (sessionN [1, 2] 0).n ∧
    (sessionN [1, 2] 0).readBuf 0 2 = .ok [1, 2] ∧ (sessionN [1, 2] 2).readBuf 2 2 = .ok [] ∧
    (sessionN [1, 2] 2).n - (sessionN [1, 2] 2).o = 0 := by decide +kernel

theorem witness_EveryIssueWritesErrAndOk :
    leads (issue { State.reset with cmd := 0x0D }) (fun t => t.ok) = true ∧
    leads (issue State.reset) (fun t => t.err == .illegal) = true := by decide +kernel
theorem witness_AdmissionBySessionState :
    admittedIn .initSession State.reset.session = false ∧
    admittedIn .prepareTxMac (keyed .des .keyed keyD [] 0).session = false ∧
    admittedIn .computeCmac fullA.session = true ∧
    leads (exec .computeCmac fullA) (fun t => t.err == .state) = true := by decide +kernel
theorem witness_AdmissionByFamily :
    admittedIn .confirmRxMac (sessionN [] 0).session = true ∧
    familyError .confirmRxMac (sessionN [] 0).ctype = some .modeViolation ∧
    familyError .computeCmac (sessionD [] 0).ctype = some .unsupported ∧
    leads (exec .computeCmac (sessionD [] 0)) (fun t => t.err == .unsupported) = true := by decide +kernel
theorem witness_LengthErrorsChangeNothing_range :
    admittedIn .crc16 State.reset.session = true ∧ familyError .crc16 State.reset.ctype = none ∧
    checksRange .crc16 = true ∧ (withLen 257 State.reset).params.bufCap < (withLen 257 State.reset).n ∧
    (sessionN [] 1).n < (sessionN [] 1).o := by decide +kernel
theorem witness_LengthErrorsChangeNothing_receive :
    admittedIn .confirmRxMac (withLen 257 (sessionD [] 0)).session = true ∧
    familyError .confirmRxMac (withLen 257 (sessionD [] 0)).ctype = none ∧ checksLen .confirmRxMac = true ∧
    (withLen 257 (sessionD [] 0)).params.bufCap < (withLen 257 (sessionD [] 0)).n := by decide +kernel
theorem witness_LengthErrorsChangeNothing_block :
    admittedIn .doCryptoDec (sessionD (zeros 9) 0).session = true ∧
    familyError .doCryptoDec (sessionD (zeros 9) 0).ctype = none ∧
    primitiveOf (sessionD (zeros 9) 0).ctype = some .des ∧
    ((sessionD (zeros 9) 0).n - (sessionD (zeros 9) 0).o) % blockSize .des ≠ 0 := by decide +kernel
theorem witness_LengthErrorsChangeNothing_transmit_mac :
    (let s := tight (sessionD (nearlyFull 3) 0);
      admittedIn .prepareTxMac s.session = true ∧ familyError .prepareTxMac s.ctype = none ∧
      factory s.ctype = .legacy .des ∧ s.params.bufCap < s.n + 4) ∧
    (let s := tight (sessionA (nearlyFull 7) 0);
      admittedIn .prepareTxMac s.session = true ∧ familyError .prepareTxMac s.ctype = none ∧
      factory s.ctype = .default .aes128 ∧ s.params.bufCap < s.n + 8) := by decide +kernel
theorem witness_LengthErrorsChangeNothing_transmit_cipher :
    (let s := tight (sessionD (nearlyFull 1) 0);
      admittedIn .prepareTxCipher s.session = true ∧ familyError .prepareTxCipher s.ctype = none ∧
      factory s.ctype = .legacy .des ∧ s.o ≤ s.n ∧
      s.params.bufCap < s.n + 2 + (8 - (s.n - s.o + 2) % 8) % 8) ∧
    (let s := tight (sessionA (nearlyFull 3) 0);
      admittedIn .prepareTxCipher s.session = true ∧ familyError .prepareTxCipher s.ctype = none ∧
      factory s.ctype = .default .aes128 ∧ s.o ≤ s.n ∧
      s.params.bufCap < s.n + 4 + (16 - (s.n + 4 - s.o) % 16) % 16) := by decide +kernel
theorem witness_ErrorsChangeNothingElse :
    leads (exec .crc16 (sessionN [] 1)) (fun t => t.err == .length) = true ∧
    leads (exec (.setupKey .des) State.reset) (fun t => t.err == .keySetup) = true ∧
    leads (exec .confirmRxMac (sessionD (bytes [1, 2, 3, 4, 5]) 0)) (fun t => t.err == .integrity) = true ∧
    leads (exec .confirmRxCipher (sessionD (zeros 8) 0)) (fun t => t.err == .integrity) = true := by
  decide +kernel
theorem witness_ErrorsComeFromTheirCommands :
    (Instr.crc16).wellFormed = true ∧
    leads (exec .crc16 (sessionN [] 1)) (fun t => t.err == .length) = true := by decide +kernel
theorem witness_DegenerateFlagIsNeverRead :
    leads (exec .doCryptoEnc dataD) (fun t => t.degen == false) = true := by decide +kernel
theorem witness_RegistersHaveTheirWriters :
    leads (exec .crc32 (sessionN [1] 0)) (fun t => t.err == .none) = true ∧
    leads (exec .prepareTxMac (sessionD [1] 0)) (fun t => t.n == 5) = true := by decide +kernel
theorem witness_BufBytesOutsideTheStoreAreKept :
    leads (exec .crc32 (sessionN [1] 0)) (fun _ => true) = true ∧
    leads (exec .doCryptoEnc dataD) (fun _ => true) = true ∧
    leads (exec .prepareTxMac (sessionD [1] 0)) (fun _ => true) = true ∧
    leads (exec .prepareTxMac (sessionA [1] 0)) (fun _ => true) = true ∧
    leads (exec .prepareTxCipher (sessionD [1] 0)) (fun _ => true) = true ∧
    leads (exec .prepareTxCipher (sessionA [1] 0)) (fun _ => true) = true ∧
    leads (exec .confirmRxCipher (sessionD (zeros 8) 0)) (fun _ => true) = true := by decide +kernel
theorem witness_CommandsFaultOnlyOnUnwrittenBuf :
    (match exec .crc16 (withLen 256 State.reset) with
      | .fault f => f == .unwrittenBuf 0x100
      | .next _ => false
      | .refused _ => false) = true := by decide +kernel
theorem witness_EveryCommandCompletes :
    (sessionN [1, 2] 0).n ≤ (sessionN [1, 2] 0).params.bufCap ∧
    (sessionN [1, 2] 0).readBuf 0 2 = .ok [1, 2] ∧
    ¬ (withLen 257 State.reset).n ≤ (withLen 257 State.reset).params.bufCap := by decide +kernel

end Sys2Proof.Tests
end

section
/-! SUPPORT. The elementary writes a command may make, and that every command is made of them: the frame of a
command and the invariant are then inductions over those writes. -/

namespace Sys2Proof.Machine

/-! ### Lengths and widths -/

/-- A family of the legacy wrapper is a DES family (spec/45_dispatch.md R330). -/
theorem primitiveOf_of_legacy {c : CipherType} {p : Primitive} (h : factory c = .legacy p) :
    primitiveOf c = some p ∧ blockSize p = 8 := by
  cases c <;> cases h <;> exact ⟨rfl, rfl⟩

theorem primitiveOf_of_default {c : CipherType} {p : Primitive} (h : factory c = .default p) :
    primitiveOf c = some p := by
  cases c <;> cases h <;> rfl

theorem bsize_toNat {s : State} {p : Primitive} (h : primitiveOf s.ctype = some p) :
    s.bsize.toNat = blockSize p := by
  rw [State.bsize, h]; cases p <;> rfl

theorem keyBytes_le (c : CipherType) : keyBytes c ≤ 24 := by cases c <;> decide

theorem byteArr_zero_drop (n b : Nat) : (ByteArr.zero n).val.drop b = zeros (n - b) := by
  simp [ByteArr.zero, zeros]

/-- A register holding a shorter string is zero beyond it (spec/10_state.md R43, R52). -/
theorem fitBytes_drop {n b : Nat} {v : List Byte} (hv : v.length = b) (hb : b ≤ n) :
    (fitBytes n v).val.drop b = zeros (n - b) := by
  subst hv
  simp [fitBytes, zeros, List.take_append, hb]

/-- CBC never lengthens a string, and leaves a block in IV. -/
def KeepsWidths (F : BlockFns → Primitive → List Byte → List Byte → List Byte → List Byte × List Byte) :
    Prop :=
  ∀ fns p (K : ByteArr 24) iv x, iv.length = blockSize p →
    (F fns p K.val iv x).1.length ≤ x.length ∧ (F fns p K.val iv x).2.length = blockSize p

theorem cbcEnc_keepsWidths : KeepsWidths cbcEnc := by
  intro fns p K iv x hiv
  obtain ⟨hout, hchain⟩ := cbcEnc_length fns p (s := x) K.property hiv
  exact ⟨hout ▸ Nat.div_mul_le_self _ _, hchain⟩

theorem cbcDec_keepsWidths : KeepsWidths cbcDec := by
  intro fns p K iv x hiv
  obtain ⟨hout, hchain⟩ := cbcDec_length fns p (s := x) K.property hiv
  exact ⟨hout ▸ Nat.div_mul_le_self _ _, hchain⟩

theorem legacyMac_length (fns : BlockFns) {p : Primitive} (K : ByteArr 24) (x : List Byte)
    (hp : blockSize p = 8) : (legacyMac fns p K.val x).length = blockSize p :=
  (cbcEnc_keepsWidths fns p K _ _ (by simp [hp])).2

theorem cmac_length (s : State) {p : Primitive} {iv : List Byte} (M : List Byte)
    (hiv : iv.length = blockSize p) :
    (s.cmac p iv M).1.length ≤ 8 ∧ (s.cmac p iv M).2.length = blockSize p := by
  refine ⟨?_, (cbcEnc_keepsWidths _ p s.pkey iv _ hiv).2⟩
  simp [State.cmac]

theorem padlen_ge {n b : Nat} (hb : 0 < b) : n ≤ padlen n b := by
  have := Nat.lt_div_mul_add (a := n + b - 1) hb
  unfold padlen
  omega

@[simp] theorem legacyTail_length (q : Params) (x : List Byte) :
    (legacyTail q x).length = padlen (x.length + 2) 8 := by
  have := padlen_ge (n := x.length + 2) (b := 8) (by decide)
  simp [legacyTail]
  omega

@[simp] theorem defaultPlain_length (q : Params) (b o : Nat) (x : List Byte) :
    (defaultPlain q b o x).length = x.length + 4 + defaultPad b o (x.length + 4) := by
  simp [defaultPlain, Nat.add_assoc]

@[simp] theorem rotateBytes_length (k : Nat) (x : List Byte) : (rotateBytes k x).length = x.length := by
  rcases Nat.eq_zero_or_pos x.length with h | h
  · simp [rotateBytes, h]
  · have := Nat.mod_lt k h
    simp [rotateBytes]
    omega

/-! ### The elementary writes -/

/-- The commands that bind or unbind a key: SETUP_KEY and RELEASE (spec/45_dispatch.md R331, R361). -/
def Rebinds (i : Instr) : Prop := i = .release ∨ ∃ c, i = .setupKey c

/-- `Effect i s t`: `t` comes from `s` by elementary writes, each of them one that the spec gives to command `i`
(spec/10_state.md R38-R54) and made where its width, bound or admission check holds. -/
inductive Effect (i : Instr) (s : State) : State → Prop
  | refl : Effect i s s
  | succeeded {u} (h : Effect i s u) : Effect i s u.succeeded
  | failed {u} (h : Effect i s u) (e : Err) : Effect i s (u.failed e)
  | writeBuf {u j v} (h : Effect i s u) (hi : writesBuf i = true)
      (hv : j + v.length ≤ u.params.bufCap) : Effect i s (u.writeBuf j v)
  | setIv {u p v} (h : Effect i s u) (hi : writesIv i = true) (hp : primitiveOf u.ctype = some p)
      (hv : v.length = blockSize p) : Effect i s (u.setIv v)
  | setLen {u} (h : Effect i s u) (hi : writesLen i = true) (n : Nat) : Effect i s (u.setLen n)
  | setResult {u} (h : Effect i s u) (hi : writesResult i = true) (r : BitVec 32) :
      Effect i s { u with result := r }
  | setMac {u} (h : Effect i s u) (hi : i = .computeCmac ∨ i = .release) (m : ByteArr 8) :
      Effect i s { u with mac := m }
  | deriveSubkeys {u p} (h : Effect i s u) (hi : writesSubkeys i = true)
      (hp : factory u.ctype = .default p) : Effect i s (deriveSubkeys p u)
  | sessionStart {u} (h : Effect i s u) (hi : i = .initSession ∨ i = .reinitSession)
      (hk : u.session ≠ .unkeyed) : Effect i s (sessionStart u)
  | latchDegen {u} (h : Effect i s u) (hi : i = .initSession) (hk : u.session ≠ .unkeyed) (d : Bool) :
      Effect i s { u with degen := d }
  | clearStaging {u} (h : Effect i s u) (hi : Rebinds i) : Effect i s u.clearStaging
  | unbind {u} (h : Effect i s u) (hi : Rebinds i) : Effect i s u.unbind
  | bind {u c K} (h : Effect i s u) (hi : i = .setupKey c) (hK : K.length = keyBytes c) :
      Effect i s (u.bind c K)

/-! ### Every command is made of its elementary writes -/

section Commands

variable {i : Instr} {s t : State}

theorem doCrypto_effect
    {F : BlockFns → Primitive → List Byte → List Byte → List Byte → List Byte × List Byte}
    (hF : KeepsWidths F) (hbuf : writesBuf i = true) (hiv : writesIv i = true)
    (h : doCrypto F s = .next t) : Effect i s t := by
  rcases doCrypto_next h with ⟨e, _, rfl⟩ | ⟨p, data, _, hp, hr, _, hd, rfl⟩
  · exact .failed .refl e
  · obtain ⟨hout, hchain⟩ := hF s.params.blockFns p s.pkey _ data (ivB_length s p)
    have hlen := State.readBuf_length hd
    exact .succeeded (.setIv (.writeBuf .refl hbuf (by omega)) hiv hp hchain)

theorem crcCommand_effect {crc : List Byte → BitVec 32} (hi : writesResult i = true)
    (h : crcCommand crc s = .next t) : Effect i s t := by
  rcases crcCommand_next h with ⟨_, rfl⟩ | ⟨data, _, _, rfl⟩
  · exact .failed .refl _
  · exact .succeeded (.setResult .refl hi _)

theorem padlenCommand_effect {len : Nat → Nat → Nat} {b : Byte} (hi : writesResult i = true)
    (h : padlenCommand len b s = .next t) : Effect i s t := by
  rcases padlenCommand_next h with ⟨_, rfl⟩ | ⟨_, rfl⟩
  · exact .failed .refl _
  · exact .succeeded (.setResult .refl hi _)

theorem execRotate_effect {k : Byte} (h : execRotate k s = .next t) : Effect (.rotate k) s t := by
  rcases execRotate_next h with ⟨_, rfl⟩ | ⟨_, rfl⟩ | ⟨data, hr, hd, rfl⟩
  · exact .failed .refl _
  · exact .succeeded .refl
  · have hlen := State.readBuf_length hd
    exact .succeeded (.writeBuf .refl rfl (by rw [rotateBytes_length]; omega))

theorem execComputeCmac_effect (h : execComputeCmac s = .next t) : Effect .computeCmac s t := by
  rcases execComputeCmac_next h with ⟨e, _, rfl⟩ | ⟨p, data, _, hp, _, _, _, rfl⟩
  · exact .failed .refl e
  · exact .succeeded (.setMac (.setIv .refl rfl (primitiveOf_of_default hp)
      (cmac_length s data (ivB_length s p)).2) (.inl rfl) _)

theorem execCmacSubkeys_effect (h : execCmacSubkeys s = .next t) : Effect .cmacSubkeys s t := by
  rcases execCmacSubkeys_next h with ⟨e, _, rfl⟩ | ⟨p, _, hp, rfl⟩
  · exact .failed .refl e
  · exact .succeeded (.deriveSubkeys .refl rfl hp)

theorem execPlain_effect (h : whenSession s (done s) = .next t) : Effect i s t := by
  rcases whenSession_next h with ⟨_, rfl⟩ | ⟨_, h⟩
  · exact .failed .refl _
  · obtain rfl := done_next.1 h
    exact .succeeded .refl

/-! #### The transforms of the two wrappers -/

theorem legacyTxMac_effect {p : Primitive} (hp : factory s.ctype = .legacy p)
    (h : legacyTxMac p s = .next t) : Effect .prepareTxMac s t := by
  obtain ⟨hprim, hb⟩ := primitiveOf_of_legacy hp
  rcases legacyTxMac_next h with ⟨_, rfl⟩ | ⟨x, hf, _, rfl⟩
  · exact .failed .refl _
  · have hv := legacyMac_length s.params.blockFns s.pkey x hb
    exact .succeeded (.setIv (.setLen (.writeBuf .refl rfl
      (by rw [List.length_take]; omega)) rfl _) rfl hprim hv)

theorem legacyTxCipher_effect {p : Primitive} (hp : factory s.ctype = .legacy p)
    (h : legacyTxCipher p s = .next t) : Effect .prepareTxCipher s t := by
  obtain ⟨hprim, hb⟩ := primitiveOf_of_legacy hp
  rcases legacyTxCipher_next h with ⟨_, rfl⟩ | ⟨x, hf, hx, rfl⟩
  · exact .failed .refl _
  · obtain ⟨hout, hchain⟩ := cbcEnc_keepsWidths s.params.blockFns p s.pkey (zeros 8)
      (legacyTail s.params x) (by simp [hb])
    rw [legacyTail_length, State.readBuf_length hx] at hout
    exact .succeeded (.setIv (.setLen (.writeBuf .refl rfl (by omega)) rfl _) rfl hprim hchain)

theorem defaultTxMac_effect {p : Primitive} (hp : factory s.ctype = .default p)
    (h : defaultTxMac p s = .next t) : Effect .prepareTxMac s t := by
  rcases defaultTxMac_next h with ⟨_, rfl⟩ | ⟨x, hf, _, rfl⟩
  · exact .failed .refl _
  · obtain ⟨hmac, hchain⟩ := cmac_length s x (ivB_length s p)
    exact .succeeded (.setIv (.setLen (.writeBuf .refl rfl (by omega)) rfl _) rfl
      (primitiveOf_of_default hp) hchain)

theorem defaultTxCipher_effect {p : Primitive} (hp : factory s.ctype = .default p) (hr : s.rangeOk)
    (h : defaultTxCipher p s = .next t) : Effect .prepareTxCipher s t := by
  obtain ⟨total, htotal, ⟨_, rfl⟩ | ⟨x, r, hf, hx, hrdef, rfl⟩⟩ := defaultTxCipher_next h
  · exact .failed .refl _
  · obtain ⟨hout, hchain⟩ := cbcEnc_keepsWidths s.params.blockFns p s.pkey _
      ((defaultPlain s.params (blockSize p) s.o x).drop s.o) (ivB_length s p)
    rw [List.length_drop, defaultPlain_length, State.readBuf_length hx, Nat.sub_zero] at hout
    rw [← hrdef] at hout hchain
    exact .succeeded (.setIv (.setLen (.writeBuf .refl rfl (by omega)) rfl _) rfl
      (primitiveOf_of_default hp) (cmac_length s r.1 hchain).2)

theorem legacyRxMac_effect {p : Primitive} (hp : factory s.ctype = .legacy p)
    (h : legacyRxMac p s = .next t) : Effect .confirmRxMac s t := by
  obtain ⟨hprim, hb⟩ := primitiveOf_of_legacy hp
  rcases legacyRxMac_next h with ⟨_, rfl⟩ | ⟨x, _, _, ⟨_, rfl⟩ | ⟨_, rfl⟩⟩
  · exact .failed .refl _
  all_goals
    have hv := legacyMac_length s.params.blockFns s.pkey (x.take (s.n - 4)) hb
  · exact .failed (.setIv .refl rfl hprim hv) _
  · exact .succeeded (.setLen (.setIv .refl rfl hprim hv) rfl _)

theorem defaultRxMac_effect {p : Primitive} (hp : factory s.ctype = .default p)
    (h : defaultRxMac p s = .next t) : Effect .confirmRxMac s t := by
  rcases defaultRxMac_next h with ⟨_, rfl⟩ | ⟨x, r, _, _, rfl, ⟨_, rfl⟩ | ⟨_, rfl⟩⟩
  · exact .failed .refl _
  all_goals
    have hv := (cmac_length s (x.take (s.n - 8)) (ivB_length s p)).2
  · exact .failed (.setIv .refl rfl (primitiveOf_of_default hp) hv) _
  · exact .succeeded (.setLen (.setIv .refl rfl (primitiveOf_of_default hp) hv) rfl _)

/-- The decrypted frame in BUF and the last ciphertext block in IV, which both receive transforms leave. -/
theorem decrypted_effect {p : Primitive} {iv c : List Byte} {r : List Byte × List Byte}
    (hi : writesBuf i = true ∧ writesIv i = true) (hp : primitiveOf s.ctype = some p)
    (hiv : iv.length = blockSize p) (hl : s.lenOk) (hc : s.readBuf 0 s.n = .ok c)
    (hr : r = cbcDec s.params.blockFns p s.pkey.val iv c) :
    Effect i s ((s.writeBuf 0 r.1).setIv r.2) := by
  obtain ⟨hout, hchain⟩ := cbcDec_keepsWidths s.params.blockFns p s.pkey iv c hiv
  rw [State.readBuf_length hc] at hout
  rw [← hr] at hout hchain
  exact .setIv (.writeBuf .refl hi.1 (by omega)) hi.2 hp hchain

theorem legacyRxCipher_effect {p : Primitive} (hi : writesBuf i = true ∧ writesIv i = true)
    (hlen : writesLen i = true) (hp : factory s.ctype = .legacy p) (hl : s.lenOk)
    (h : legacyRxCipher p s = .next t) : Effect i s t := by
  obtain ⟨hprim, hb⟩ := primitiveOf_of_legacy hp
  rcases legacyRxCipher_next h with ⟨_, rfl⟩ | ⟨c, r, s', _, _, hc, hr, rfl, ⟨_, rfl⟩ | ⟨L, _, rfl⟩⟩
  · exact .failed .refl _
  all_goals have hs' := decrypted_effect hi hprim (by simp [hb]) hl hc hr
  · exact .failed hs' _
  · exact .succeeded (.setLen hs' hlen L)

theorem defaultRxCipher_effect {p : Primitive} {status : Option Byte}
    (hi : writesBuf i = true ∧ writesIv i = true) (hlen : writesLen i = true)
    (hp : factory s.ctype = .default p) (hl : s.lenOk)
    (h : defaultRxCipher p status s = .next t) : Effect i s t := by
  have hprim := primitiveOf_of_default hp
  rcases defaultRxCipher_next h with ⟨_, rfl⟩ | ⟨c, r, s', _, _, hc, hr, rfl, ⟨_, rfl⟩ | ⟨L, _, rfl⟩⟩
  · exact .failed .refl _
  all_goals have hs' := decrypted_effect hi hprim (ivB_length s p) hl hc hr
  · exact .failed hs' _
  · exact .succeeded (.setLen hs' hlen L)

/-! #### The mode dispatcher -/

theorem prepareTx_effect {legacy default : Primitive → State → Result}
    (hlegacy : ∀ p, factory s.ctype = .legacy p → legacy p s = .next t → Effect i s t)
    (hdefault : ∀ p, factory s.ctype = .default p → s.rangeOk → default p s = .next t → Effect i s t)
    (h : prepareTx legacy default s = .next t) : Effect i s t := by
  rcases prepareTx_next h with ⟨e, _, rfl⟩ | ⟨_, hr, p, ⟨hp, h⟩ | ⟨hp, h⟩⟩
  · exact .failed .refl e
  · exact hlegacy p hp h
  · exact hdefault p hp hr h

theorem confirmRx_effect {legacy default : Primitive → State → Result}
    (hlegacy : ∀ p, factory s.ctype = .legacy p → s.lenOk → legacy p s = .next t → Effect i s t)
    (hdefault : ∀ p, factory s.ctype = .default p → s.lenOk → default p s = .next t → Effect i s t)
    (h : confirmRx legacy default s = .next t) : Effect i s t := by
  rcases confirmRx_next h with ⟨e, _, _, rfl⟩ | ⟨_, hl, p, ⟨hp, h⟩ | ⟨hp, h⟩⟩
  · exact .failed .refl e
  · exact hlegacy p hp hl h
  · exact hdefault p hp hl h

/-! #### Key setup and sessions -/

theorem execSetupKey_effect {c : CipherType} (h : execSetupKey c s = .next t) :
    Effect (.setupKey c) s t := by
  have hi : Rebinds (.setupKey c) := .inr ⟨c, rfl⟩
  rcases execSetupKey_next h with ⟨_, rfl⟩ | ⟨_, rfl⟩
  · exact .failed (.unbind (.clearStaging .refl hi) hi) _
  · have hK : (slice s.key.val 0 (keyBytes c)).length = keyBytes c := by
      have := s.key.property
      have := keyBytes_le c
      simp
      omega
    exact .succeeded (.bind (.clearStaging .refl hi) rfl hK)

/-- Everything INIT_SESSION can do (spec/45_dispatch.md R334, R335). -/
theorem execInitSession_next (h : execInitSession s = .next t) :
    (∃ e, e ≠ .none ∧ t = s.failed e) ∨ (s.session ≠ .unkeyed ∧
      t = State.succeeded { sessionStart s with degen := degenerate s.ctype s.pkey.val }) := by
  rcases whenKeyed_next h with ⟨_, rfl⟩ | ⟨hk, h⟩
  · exact .inl ⟨.state, by decide, rfl⟩
  · rcases whenRange_next h with ⟨_, rfl⟩ | ⟨_, h⟩
    · exact .inl ⟨.length, by decide, rfl⟩
    · exact .inr ⟨hk, done_next.1 h⟩

/-- Everything REINIT_SESSION can do (spec/45_dispatch.md R334, R336). -/
theorem execReinitSession_next (h : execReinitSession s = .next t) :
    (∃ e, e ≠ .none ∧ t = s.failed e) ∨
      (s.session ≠ .unkeyed ∧ t = (sessionStart s).succeeded) := by
  rcases whenKeyed_next h with ⟨_, rfl⟩ | ⟨hk, h⟩
  · exact .inl ⟨.state, by decide, rfl⟩
  · rcases whenRange_next h with ⟨_, rfl⟩ | ⟨_, h⟩
    · exact .inl ⟨.length, by decide, rfl⟩
    · exact .inr ⟨hk, done_next.1 h⟩

theorem execInitSession_effect (h : execInitSession s = .next t) : Effect .initSession s t := by
  rcases execInitSession_next h with ⟨e, _, rfl⟩ | ⟨hk, rfl⟩
  · exact .failed .refl e
  · exact .succeeded (.latchDegen (.sessionStart .refl (.inl rfl) hk) rfl (by simp) _)

theorem execReinitSession_effect (h : execReinitSession s = .next t) : Effect .reinitSession s t := by
  rcases execReinitSession_next h with ⟨e, _, rfl⟩ | ⟨hk, rfl⟩
  · exact .failed .refl e
  · exact .succeeded (.sessionStart .refl (.inr rfl) hk)

theorem execRelease_effect (h : execRelease s = .next t) : Effect .release s t := by
  obtain rfl := done_next.1 h
  exact .succeeded (.setMac (.unbind (.clearStaging .refl (.inl rfl)) (.inl rfl)) (.inr rfl) _)

/-- Every command is made of the elementary writes the spec gives it. -/
theorem exec_effect (h : exec i s = .next t) : Effect i s t := by
  cases i with
  | setupKey c => exact execSetupKey_effect h
  | initSession => exact execInitSession_effect h
  | reinitSession => exact execReinitSession_effect h
  | doCryptoEnc => exact doCrypto_effect cbcEnc_keepsWidths rfl rfl h
  | doCryptoDec => exact doCrypto_effect cbcDec_keepsWidths rfl rfl h
  | doCryptoMac => exact doCrypto_effect (F := cbcMac) cbcEnc_keepsWidths rfl rfl h
  | cmacSubkeys => exact execCmacSubkeys_effect h
  | computeCmac => exact execComputeCmac_effect h
  | prepareTxPlain => exact execPlain_effect h
  | prepareTxMac =>
    exact prepareTx_effect (fun _ => legacyTxMac_effect) (fun _ hp _ => defaultTxMac_effect hp) h
  | prepareTxCipher =>
    exact prepareTx_effect (fun _ => legacyTxCipher_effect) (fun _ => defaultTxCipher_effect) h
  | confirmRxPlain => exact execPlain_effect h
  | confirmRxMac =>
    exact confirmRx_effect (fun _ hp _ => legacyRxMac_effect hp) (fun _ hp _ => defaultRxMac_effect hp) h
  | confirmRxCipher =>
    exact confirmRx_effect (fun _ => legacyRxCipher_effect ⟨rfl, rfl⟩ rfl)
      (fun _ => defaultRxCipher_effect ⟨rfl, rfl⟩ rfl) h
  | confirmRxCipherS status =>
    exact confirmRx_effect (fun _ => legacyRxCipher_effect ⟨rfl, rfl⟩ rfl)
      (fun _ => defaultRxCipher_effect ⟨rfl, rfl⟩ rfl) h
  | crc16 => exact crcCommand_effect rfl h
  | crc32 => exact crcCommand_effect rfl h
  | crc32S status => exact crcCommand_effect rfl h
  | padlenZero b => exact padlenCommand_effect rfl h
  | padlenCmac b => exact padlenCommand_effect rfl h
  | rotate k => exact execRotate_effect h
  | release => exact execRelease_effect h

end Commands

end Sys2Proof.Machine
end

section
/-! SUPPORT. What follows from the elementary writes: the writers of each register (O57), the session state (O18)
and the invariant (O20). -/

namespace Sys2Proof.Machine

/-! ### Which registers a command leaves (10_state.md R35-R54) -/

/-- The registers that command `i` leaves as they are, named by the commands that may write them. -/
structure RegistersKept (i : Instr) (s t : State) : Prop where
  params : t.params = s.params
  cmd : t.cmd = s.cmd
  ofs : t.ofs = s.ofs
  pending : t.pending = s.pending
  readLog : t.readLog = s.readLog
  result : writesResult i = false → t.result = s.result
  len : writesLen i = false → t.len = s.len
  iv : writesIv i = false → t.iv = s.iv
  subkeys : writesSubkeys i = false → t.sk1 = s.sk1 ∧ t.sk2 = s.sk2 ∧ t.skv = s.skv
  mac : i ≠ .computeCmac ∧ i ≠ .release → t.mac = s.mac
  binding : ¬ Rebinds i → t.key = s.key ∧ t.keylen = s.keylen ∧ t.pkey = s.pkey ∧ t.ctype = s.ctype
  degen : ¬ Rebinds i ∧ i ≠ .initSession → t.degen = s.degen
  session : ¬ Rebinds i ∧ i ≠ .initSession ∧ i ≠ .reinitSession → t.session = s.session

theorem Rebinds.writes {i : Instr} (h : Rebinds i) :
    writesIv i = true ∧ writesSubkeys i = true := by
  obtain rfl | ⟨c, rfl⟩ := h <;> exact ⟨rfl, rfl⟩

theorem writes_of_startsSession {i : Instr} (h : i = .initSession ∨ i = .reinitSession) :
    writesIv i = true ∧ writesSubkeys i = true := by
  obtain rfl | rfl := h <;> exact ⟨rfl, rfl⟩

/-- The elementary writes of a command touch only registers of which it is a writer. -/
theorem Effect.registersKept {i : Instr} {s t : State} (h : Effect i s t) : RegistersKept i s t := by
  induction h with
  | refl => constructor <;> simp
  | succeeded _ ih => exact { ih with }
  | failed _ e ih => exact { ih with }
  | writeBuf _ _ _ ih => exact { ih with }
  | setIv _ hi _ _ ih => exact { ih with iv := by simp [hi] }
  | setLen _ hi n ih => exact { ih with len := by simp [hi] }
  | setResult _ hi r ih => exact { ih with result := by simp [hi] }
  | setMac _ hi m ih => exact { ih with mac := by tauto }
  | deriveSubkeys _ hi _ ih => exact { ih with subkeys := by simp [hi] }
  | sessionStart _ hi _ ih =>
    have hw := writes_of_startsSession hi
    constructor
    case session => tauto
    all_goals simp [hw, ih.params, ih.cmd, ih.ofs, ih.pending, ih.readLog]
    · exact ih.result
    · exact ih.len
    · simpa using ih.mac
    · exact ih.binding
    · simpa using ih.degen
  | latchDegen _ hi _ d ih => exact { ih with degen := by tauto }
  | clearStaging _ hi ih => exact { ih with binding := by tauto }
  | unbind _ hi ih =>
    exact { ih with
      iv := by simp [hi.writes]
      subkeys := by simp [hi.writes]
      binding := by tauto
      degen := by tauto
      session := by tauto }
  | bind _ hi _ ih =>
    have hr : Rebinds _ := .inr ⟨_, hi⟩
    exact { ih with
      iv := by simp [hr.writes]
      subkeys := by simp [hr.writes]
      binding := by tauto
      session := by tauto }

theorem not_rebinds_iff {i : Instr} : ¬ Rebinds i ↔ i ≠ .release ∧ ∀ c, i ≠ .setupKey c := by
  simp [Rebinds]

/-- Settles O57: each register changes only by an elementary write of a command that may write it. -/
theorem registersHaveTheirWriters : Obligations.RegistersHaveTheirWriters := by
  unfold Obligations.RegistersHaveTheirWriters
  intro i s t h
  have k := (exec_effect h).registersKept
  refine ⟨k.params, k.cmd, k.ofs, k.pending, k.readLog, k.result, k.len, k.iv, k.subkeys, k.mac, ?_, ?_⟩
  · intro hi
    exact k.binding (not_rebinds_iff.2 hi)
  · rintro ⟨hr, hinit, hsetup⟩
    exact k.degen ⟨not_rebinds_iff.2 ⟨hr, hsetup⟩, hinit⟩

/-! ### The session state (10_state.md R51) -/

theorem sessionAfter_of_keeps {i : Instr} (v : Session) (e : Err)
    (hi : ¬ Rebinds i ∧ i ≠ .initSession ∧ i ≠ .reinitSession) : sessionAfter i v e = v := by
  obtain ⟨hr, hinit, hreinit⟩ := hi
  obtain ⟨hrelease, hsetup⟩ := not_rebinds_iff.1 hr
  unfold sessionAfter
  split <;> simp_all

/-- Settles O18: the four commands that move the session state by their cases, every other one because it
writes none of it. -/
theorem sessionStateTransitions : Obligations.SessionStateTransitions := by
  unfold Obligations.SessionStateTransitions
  intro i s t h
  by_cases hi : ¬ Rebinds i ∧ i ≠ .initSession ∧ i ≠ .reinitSession
  · rw [sessionAfter_of_keeps _ _ hi]
    exact (exec_effect h).registersKept.session hi
  · have hmoves : i = .release ∨ (∃ c, i = .setupKey c) ∨ i = .initSession ∨ i = .reinitSession := by
      unfold Rebinds at hi; tauto
    obtain rfl | ⟨c, rfl⟩ | rfl | rfl := hmoves
    · obtain rfl := done_next.1 (h : execRelease s = .next t)
      rfl
    · rcases execSetupKey_next h with ⟨_, rfl⟩ | ⟨_, rfl⟩ <;> rfl
    · rcases execInitSession_next h with ⟨e, he, rfl⟩ | ⟨_, rfl⟩
      · simp [sessionAfter, he]
      · rfl
    · rcases execReinitSession_next h with ⟨e, he, rfl⟩ | ⟨_, rfl⟩
      · simp [sessionAfter, he]
      · rfl

/-! ### The invariant -/

/-- A store within the capacity keeps BUF's bytes in BUF (20_memory.md R91). -/
theorem writeBuf_in_buf {s : State} {j : Nat} {v : List Byte}
    (h : ∀ c ∈ s.mem, bufBase ≤ c.1 ∧ c.1 < bufBase + s.params.bufCap)
    (hv : j + v.length ≤ s.params.bufCap) :
    ∀ c ∈ (s.writeBuf j v).mem, bufBase ≤ c.1 ∧ c.1 < bufBase + s.params.bufCap := by
  intro c hc
  rcases Memory.mem_writeRange hc with hc | ⟨hlo, hhi⟩
  · exact h c hc
  · omega

/-- A state that binds nothing and is otherwise clean has the invariant. -/
theorem State.Inv.of_unbound {s : State} (hwf : s.mem.wf)
    (hbuf : ∀ c ∈ s.mem, bufBase ≤ c.1 ∧ c.1 < bufBase + s.params.bufCap)
    (hok : s.ok = true → s.err = .none) (hses : s.session = .unkeyed) (hskv : s.skv = false)
    (hdegen : s.degen = false) (hctype : s.ctype = .none) (hiv : s.iv = ByteArr.zero 16)
    (hsk1 : s.sk1 = ByteArr.zero 16) (hsk2 : s.sk2 = ByteArr.zero 16)
    (hpkey : s.pkey = ByteArr.zero 24) : s.Inv where
  mem_wf := hwf
  mem_in_buf := hbuf
  ok_no_error := hok
  unkeyed_unbound _ := ⟨hctype, hpkey, hdegen⟩
  iv_width := by rw [hiv, byteArr_zero_drop]
  pkey_width := by rw [hpkey, byteArr_zero_drop]
  subkeys_fresh := by simp [hskv]
  subkeys_clear _ := ⟨hsk1, hsk2⟩
  session_has_subkeys := by simp [hses]

theorem State.Inv.bind {s : State} (h : s.Inv) {c : CipherType} {K : List Byte}
    (hK : K.length = keyBytes c) : (s.bind c K).Inv where
  mem_wf := h.mem_wf
  mem_in_buf := h.mem_in_buf
  ok_no_error := h.ok_no_error
  unkeyed_unbound := by simp
  iv_width := byteArr_zero_drop _ _
  pkey_width := fitBytes_drop hK (keyBytes_le c)
  subkeys_fresh := by simp
  subkeys_clear _ := ⟨rfl, rfl⟩
  session_has_subkeys := by simp

/-- Derived subkeys are fresh by construction (70_reset_and_hazards.md R461). -/
theorem State.Inv.deriveSubkeys {s : State} (h : s.Inv) {p : Primitive}
    (hp : factory s.ctype = .default p) : (deriveSubkeys p s).Inv :=
  { h with
    subkeys_fresh := fun _ => ⟨p, hp, rfl, rfl⟩
    subkeys_clear := by simp
    session_has_subkeys := fun _ _ _ => rfl }

theorem State.Inv.zeroIv {s : State} (h : s.Inv) : State.Inv { s with iv := ByteArr.zero 16 } :=
  { h with iv_width := byteArr_zero_drop _ _ }

theorem State.Inv.sessionStart {s : State} (h : s.Inv) : (sessionStart s).Inv := by
  rcases sessionStart_cases s with ⟨p, hp, heq⟩ | ⟨hno, heq⟩ <;> rw [heq]
  · exact { h.zeroIv.deriveSubkeys hp with
      unkeyed_unbound := by simp
      session_has_subkeys := fun _ _ _ => rfl }
  · exact { h.zeroIv with
      unkeyed_unbound := by simp
      session_has_subkeys := fun _ p hp => absurd hp (hno p) }

/-- Every elementary write of a command keeps the invariant. -/
theorem Effect.inv {i : Instr} {s t : State} (h : Effect i s t) (hs : s.Inv) : t.Inv := by
  induction h with
  | refl => exact hs
  | succeeded _ ih => exact { ih with ok_no_error := fun _ => rfl }
  | failed _ e ih => exact { ih with ok_no_error := by simp }
  | writeBuf _ _ hv ih =>
    exact { ih with
      mem_wf := State.writeBuf_wf ih.mem_wf _ _
      mem_in_buf := writeBuf_in_buf ih.mem_in_buf hv }
  | @setIv u p v _ _ hp hv ih =>
    have hb : u.bsize.toNat = blockSize p := bsize_toNat hp
    have hw := fitBytes_drop (n := 16) (hv.trans hb.symm) (hb ▸ blockSize_le p)
    exact { ih with iv_width := hw }
  | setLen _ _ n ih => exact { ih with }
  | setResult _ _ r ih => exact { ih with }
  | setMac _ _ m ih => exact { ih with }
  | deriveSubkeys _ _ hp ih => exact ih.deriveSubkeys hp
  | sessionStart _ _ _ ih => exact ih.sessionStart
  | latchDegen _ _ hk d ih => exact { ih with unkeyed_unbound := fun hu => absurd hu hk }
  | clearStaging _ _ ih => exact { ih with }
  | unbind _ _ ih =>
    exact .of_unbound ih.mem_wf ih.mem_in_buf ih.ok_no_error rfl rfl rfl rfl rfl rfl rfl rfl
  | bind _ _ hK ih => exact ih.bind hK

/-- A host write stores in BUF or leaves it alone (20_memory.md R83). -/
theorem windowWrite_mem (s : State) (a : Nat) (v : Byte) :
    (s.windowWrite a v).mem = s.mem ∨
    (bufBase ≤ a ∧ a < bufBase + s.params.bufCap ∧ (s.windowWrite a v).mem = s.mem.write a v) := by
  unfold State.windowWrite
  repeat' split
  any_goals exact .inl rfl
  exact .inr ⟨by omega, by omega, rfl⟩

theorem State.Inv.windowWrite {s : State} (h : s.Inv) (a : Nat) (v : Byte) :
    (s.windowWrite a v).Inv where
  mem_wf := State.windowWrite_wf h.mem_wf a v
  mem_in_buf := by
    rw [windowWrite_params]
    rcases windowWrite_mem s a v with hm | ⟨hlo, hhi, hm⟩ <;> rw [hm]
    · exact h.mem_in_buf
    · intro c hc
      rcases Memory.mem_write hc with hc | rfl
      · exact h.mem_in_buf c hc
      · exact ⟨hlo, hhi⟩
  ok_no_error := by simpa using h.ok_no_error
  unkeyed_unbound := by simpa using h.unkeyed_unbound
  iv_width := by simpa [State.bsize] using h.iv_width
  pkey_width := by simpa using h.pkey_width
  subkeys_fresh := by simpa using h.subkeys_fresh
  subkeys_clear := by simpa using h.subkeys_clear
  session_has_subkeys := by simpa using h.session_has_subkeys

theorem State.Inv.failed {s : State} (h : s.Inv) (e : Err) : (s.failed e).Inv :=
  { h with ok_no_error := by simp }

theorem State.Inv.issue {s t : State} (h : s.Inv) (ht : issue s = .next t) : t.Inv := by
  rcases issue_next ht with ⟨_, _, rfl⟩ | ⟨i, _, ht⟩
  · exact h.failed .illegal
  · exact (exec_effect ht).inv h

theorem State.Inv.acceptReset {s : State} : (acceptReset s).Inv :=
  .of_unbound .nil (by simp) (by simp) rfl rfl rfl rfl rfl rfl rfl rfl

/-- Every event from outside keeps the invariant. -/
theorem State.Inv.accept {e : HostEvent} {s t : State} (h : s.Inv) (ht : accept e s = .next t) :
    t.Inv := by
  rcases accept_next ht with
    ⟨_, _, _, _, _, _, rfl⟩ | ⟨_, a, v, _, _, _, rfl⟩ | ⟨_, v, _, _, ht⟩ | ⟨_, rfl⟩
  · exact { h with }
  · exact h.windowWrite a v
  · exact (h.windowWrite issueOffset v).issue ht
  · exact .acceptReset

/-- Settles O20: an idle step keeps the state, and every event keeps the invariant. -/
theorem stepKeepsInvariant : Obligations.StepKeepsInvariant := by
  unfold Obligations.StepKeepsInvariant
  intro s t h ht
  rcases step_next ht with ⟨_, rfl⟩ | ⟨e, rest, _, ht⟩
  · exact h
  · have hpop : State.Inv { s with pending := rest } := { h with }
    exact hpop.accept ht

end Sys2Proof.Machine
end

section
/-! SUPPORT. What a host read answers, byte by byte of the register window (O9, O12). -/

namespace Sys2Proof.Machine

/-! ### The register window (10_state.md R34) -/

theorem windowRead_register (s : State) {a : Nat} (h : a < 0x100) :
    s.windowRead a = some (s.registerByte a) := if_pos h

theorem windowRead_buf (s : State) {i : Nat} (h : i < s.params.bufCap) :
    s.windowRead (0x100 + i) = s.mem.read (0x100 + i) := by
  rw [State.windowRead, if_neg (by simp [bufBase]), if_pos (by simpa [bufBase] using h)]

theorem windowRead_above (s : State) {a : Nat} (h : 0x100 + s.params.bufCap ≤ a) :
    s.windowRead a = some 0x00 := by
  rw [State.windowRead, if_neg (by simp only [bufBase]; omega), if_neg (by simp only [bufBase]; omega)]

/-- A byte within the register's length is the stored one (20_memory.md R85). -/
theorem some_byteAt {n : Nat} (r : ByteArr n) {i : Nat} (h : i < n) : some (byteAt r i) = r.val[i]? := by
  have hi : i < r.val.length := by rw [r.property]; exact h
  simp [byteAt, hi]

theorem status_fields (s : State) :
    s.status.extractLsb' 5 3 = 0 ∧ s.status.getLsbD 4 = s.ok ∧ s.status.getLsbD 3 = s.degen ∧
      s.status.getLsbD 2 = s.skv ∧ s.status.extractLsb' 0 2 = s.session.code := by
  unfold State.status
  generalize s.ok = o, s.degen = d, s.skv = k, s.session.code = c
  revert o d k c
  decide

theorem bsize_eq (s : State) :
    s.bsize = if s.ctype = .none then 0 else if s.ctype = .aes128 then 16 else 8 := by
  unfold State.bsize
  cases s.ctype <;> rfl

section RegisterByte

variable (s : State) {i : Nat}

theorem registerByte_cmd (h : i < 4) : s.registerByte (0x00 + i) = s.cmd.extractLsb' (8 * i) 8 := by
  interval_cases i <;> rfl

theorem registerByte_len (h : i < 2) : s.registerByte (0x08 + i) = s.len.extractLsb' (8 * i) 8 := by
  interval_cases i <;> rfl

theorem registerByte_ofs (h : i < 2) : s.registerByte (0x0A + i) = s.ofs.extractLsb' (8 * i) 8 := by
  interval_cases i <;> rfl

theorem registerByte_result (h : i < 4) :
    s.registerByte (0x0C + i) = s.result.extractLsb' (8 * i) 8 := by
  interval_cases i <;> rfl

theorem registerByte_iv (h : i < 16) : s.registerByte (0x10 + i) = byteAt s.iv i := by
  interval_cases i <;> rfl

theorem registerByte_sk1 (h : i < 16) : s.registerByte (0x20 + i) = byteAt s.sk1 i := by
  interval_cases i <;> rfl

theorem registerByte_sk2 (h : i < 16) : s.registerByte (0x30 + i) = byteAt s.sk2 i := by
  interval_cases i <;> rfl

theorem registerByte_mac (h : i < 8) : s.registerByte (0x60 + i) = byteAt s.mac i := by
  interval_cases i <;> rfl

theorem registerByte_key (h : 0x40 ≤ i ∧ i < 0x58) : s.registerByte i = 0x00 := by
  obtain ⟨hlo, hhi⟩ := h
  interval_cases i <;> rfl

/-- The offsets between KEYLEN and MAC are reserved (10_state.md R50). -/
theorem registerByte_reserved_low (h : 0x59 ≤ i ∧ i < 0x60) : s.registerByte i = 0x00 := by
  obtain ⟨hlo, hhi⟩ := h
  interval_cases i <;> rfl

/-- The offsets between MAC and BUF are reserved (10_state.md R50). -/
theorem registerByte_reserved_high (h : 0x68 ≤ i) : s.registerByte i = 0x00 := by
  unfold State.registerByte
  repeat rw [if_neg (by omega)]

end RegisterByte

/-- Settles O9, one range of offsets after another. -/
theorem windowReadsByOffset : Obligations.WindowReadsByOffset := by
  unfold Obligations.WindowReadsByOffset
  intro s
  have hreg {a : Nat} {v : Byte} (ha : a < 0x100) (hv : s.registerByte a = v) :
      s.windowRead a = some v := by rw [windowRead_register s ha, hv]
  have harr {n a i : Nat} (r : ByteArr n) (ha : a + i < 0x100) (hi : i < n)
      (hv : s.registerByte (a + i) = byteAt r i) : s.windowRead (a + i) = r.val[i]? := by
    rw [hreg ha hv, some_byteAt r hi]
  refine ⟨?cmd, ?status, ?err, ?ctype, ?bsize, ?len, ?ofs, ?result, ?iv, ?sk1, ?sk2, ?key, ?keylen,
    ?low, ?mac, ?high, ?buf, ?above⟩
  case cmd => exact fun i hi => hreg (by omega) (registerByte_cmd s hi)
  case status =>
    intro v hv
    obtain rfl : s.status = v := by simpa using (hreg (v := s.status) (by decide) rfl).symm.trans hv
    exact status_fields s
  case err => exact hreg (by decide) rfl
  case ctype => exact hreg (by decide) rfl
  case bsize => exact hreg (by decide) (bsize_eq s)
  case len => exact fun i hi => hreg (by omega) (registerByte_len s hi)
  case ofs => exact fun i hi => hreg (by omega) (registerByte_ofs s hi)
  case result => exact fun i hi => hreg (by omega) (registerByte_result s hi)
  case iv => exact fun i hi => harr s.iv (by omega) hi (registerByte_iv s hi)
  case sk1 => exact fun i hi => harr s.sk1 (by omega) hi (registerByte_sk1 s hi)
  case sk2 => exact fun i hi => harr s.sk2 (by omega) hi (registerByte_sk2 s hi)
  case key => exact fun a ha => hreg (by omega) (registerByte_key s ha)
  case keylen => exact hreg (by decide) rfl
  case low => exact fun a ha => hreg (by omega) (registerByte_reserved_low s ha)
  case mac => exact fun i hi => harr s.mac (by omega) hi (registerByte_mac s hi)
  case high => exact fun a ha => hreg (by omega) (registerByte_reserved_high s ha.1)
  case buf => exact fun i hi => windowRead_buf s hi
  case above => exact fun a ha => windowRead_above s ha

/-- No offset of the window shows KEY or PKEY (10_state.md R44, R52). -/
theorem windowRead_ignores_keys (s : State) (k pk : ByteArr 24) (a : Nat) :
    State.windowRead { s with key := k, pkey := pk } a = s.windowRead a := rfl

/-- The step that takes a read of the window (20_memory.md R82). -/
theorem step_read {s : State} {addr a : Nat} {v : Byte} {rest : List HostEvent}
    (hp : s.pending = .read addr :: rest) (ha : windowOffset s.params addr = some a)
    (hv : s.windowRead a = some v) :
    step s = .next { s with pending := rest, readLog := s.readLog ++ [v] } := by
  have hv' : State.windowRead { s with pending := rest } a = some v := hv
  simp [step, stepBus, hp, accept, acceptRead, ha, hv']

/-- Settles O12: the byte read is that of the window, which shows no key. -/
theorem hostReadsRevealNoKey : Obligations.HostReadsRevealNoKey := by
  unfold Obligations.HostReadsRevealNoKey
  intro s t addr rest k pk hp h
  obtain ⟨hnil, _⟩ | ⟨e, rest', hcons, h⟩ := step_next h
  · simp [hp] at hnil
  · obtain ⟨rfl, rfl⟩ := List.cons.inj (hp.symm.trans hcons)
    rcases accept_next h with
      ⟨_, a, v, he, ha, hv, rfl⟩ | ⟨_, _, _, he, _⟩ | ⟨_, _, he, _⟩ | ⟨he, _⟩
    · obtain rfl := HostEvent.read.inj he
      exact step_read (s := { s with key := k, pkey := pk }) hp ha
        ((windowRead_ignores_keys s k pk a).trans hv)
    all_goals cases he

end Sys2Proof.Machine
end

section
/-! SUPPORT. The checks that raise LENGTH, and what a command past them comes down to (O53). -/

namespace Sys2Proof.Machine

/-! ### The checks, from what they test -/

section Checks

variable {s : State} {k : Result}

theorem whenKeyed_pass (h : s.session ≠ .unkeyed) : whenKeyed s k = k := if_neg h

theorem whenSession_pass (h : s.session = .session) : whenSession s k = k := if_pos h

theorem whenRange_fail (h : ¬ s.rangeOk) : whenRange s k = raise .length s := if_neg h

theorem whenLen_fail (h : ¬ s.lenOk) : whenLen s k = raise .length s := if_neg h

theorem whenFits_fail {n' : Nat} (h : ¬ s.fits n') : whenFits s n' k = raise .length s := if_neg h

/-- A command that ends in LENGTH does so whether its range is good or not. -/
theorem whenRange_raise (h : k = raise .length s) : whenRange s k = raise .length s := by
  rw [h, whenRange, ite_self]

end Checks

/-! ### Commands past their admission (60_exceptions.md R414, R415) -/

section Past

variable {s : State} {p : Primitive} {legacy default : Primitive → State → Result}

theorem primitiveOf_of_ne_none {c : CipherType} (h : c ≠ .none) : ∃ p, primitiveOf c = some p := by
  cases c
  case none => exact absurd rfl h
  all_goals exact ⟨_, rfl⟩

theorem factory_of_ne_none {c : CipherType} (h : c ≠ .none) :
    ∃ p, factory c = .legacy p ∨ factory c = .default p := by
  cases c
  case none => exact absurd rfl h
  case des | des3_2k => exact ⟨_, .inl rfl⟩
  case des3_3k | aes128 => exact ⟨_, .inr rfl⟩

theorem factory_of_cmac {c : CipherType} (h : c = .des3_3k ∨ c = .aes128) :
    ∃ p, factory c = .default p := by
  obtain rfl | rfl := h <;> exact ⟨_, rfl⟩

theorem prepareTx_of_legacy (hs : s.session = .session) (hp : factory s.ctype = .legacy p) :
    prepareTx legacy default s = whenRange s (legacy p s) := by
  simp only [prepareTx, whenSession_pass hs, hp]

theorem prepareTx_of_default (hs : s.session = .session) (hp : factory s.ctype = .default p) :
    prepareTx legacy default s = whenRange s (default p s) := by
  simp only [prepareTx, whenSession_pass hs, hp]

theorem confirmRx_of_legacy (hs : s.session = .session) (hp : factory s.ctype = .legacy p) :
    confirmRx legacy default s = whenLen s (legacy p s) := by
  simp only [confirmRx, whenSession_pass hs, hp]

theorem confirmRx_of_default (hs : s.session = .session) (hp : factory s.ctype = .default p) :
    confirmRx legacy default s = whenLen s (default p s) := by
  simp only [confirmRx, whenSession_pass hs, hp]

theorem prepareTx_bad_range (hs : s.session = .session) (hc : s.ctype ≠ .none) (h : ¬ s.rangeOk) :
    prepareTx legacy default s = raise .length s := by
  obtain ⟨p, hp | hp⟩ := factory_of_ne_none hc
  · rw [prepareTx_of_legacy hs hp, whenRange_fail h]
  · rw [prepareTx_of_default hs hp, whenRange_fail h]

theorem confirmRx_bad_len (hs : s.session = .session) (hc : s.ctype ≠ .none) (h : ¬ s.lenOk) :
    confirmRx legacy default s = raise .length s := by
  obtain ⟨p, hp | hp⟩ := factory_of_ne_none hc
  · rw [confirmRx_of_legacy hs hp, whenLen_fail h]
  · rw [confirmRx_of_default hs hp, whenLen_fail h]

variable {F : BlockFns → Primitive → List Byte → List Byte → List Byte → List Byte × List Byte}

theorem doCrypto_bad_range (hk : s.session ≠ .unkeyed) (hc : s.ctype ≠ .none) (h : ¬ s.rangeOk) :
    doCrypto F s = raise .length s := by
  obtain ⟨p, hp⟩ := primitiveOf_of_ne_none hc
  simp only [doCrypto, whenKeyed_pass hk, hp, whenRange_fail h]

theorem doCrypto_partial_block (hk : s.session ≠ .unkeyed) (hp : primitiveOf s.ctype = some p)
    (h : (s.n - s.o) % blockSize p ≠ 0) : doCrypto F s = raise .length s := by
  simp only [doCrypto, whenKeyed_pass hk, hp]
  exact whenRange_raise (if_pos h)

theorem execComputeCmac_bad_range (hk : s.session ≠ .unkeyed) (hp : factory s.ctype = .default p)
    (hv : s.skv = true) (h : ¬ s.rangeOk) : execComputeCmac s = raise .length s := by
  simp [execComputeCmac, whenKeyed_pass hk, hp, hv, whenRange_fail h]

theorem crcCommand_bad_range {crc : List Byte → BitVec 32} (h : ¬ s.rangeOk) :
    crcCommand crc s = raise .length s := whenRange_fail h

/-- A command that checks its range refuses a bad one (10_state.md R33). -/
theorem exec_bad_range {i : Instr} (hadm : admittedIn i s.session = true)
    (hfam : familyError i s.ctype = none) (hskv : i = .computeCmac → s.skv = true)
    (hi : checksRange i = true) (h : ¬ s.rangeOk) : exec i s = raise .length s := by
  cases i
  case initSession | reinitSession =>
    exact (whenKeyed_pass (by simpa [admittedIn] using hadm)).trans (whenRange_fail h)
  case doCryptoEnc | doCryptoDec | doCryptoMac =>
    exact doCrypto_bad_range (by simpa [admittedIn] using hadm) (by simpa [familyError] using hfam) h
  case computeCmac =>
    obtain ⟨p, hp⟩ := factory_of_cmac (c := s.ctype)
      (or_iff_not_imp_left.2 (by simpa [familyError] using hfam))
    exact execComputeCmac_bad_range (by simpa [admittedIn] using hadm) hp (hskv rfl) h
  case prepareTxMac | prepareTxCipher =>
    exact prepareTx_bad_range (by simpa [admittedIn] using hadm) (by simpa [familyError] using hfam) h
  case crc16 | crc32 | crc32S => exact crcCommand_bad_range h
  case rotate => exact whenRange_fail h
  all_goals simp [checksRange] at hi

/-- A command that works on BUF[0..LEN) refuses a LEN above BUF_CAP (45_dispatch.md R345). -/
theorem exec_bad_len {i : Instr} (hadm : admittedIn i s.session = true)
    (hfam : familyError i s.ctype = none) (hi : checksLen i = true) (h : ¬ s.lenOk) :
    exec i s = raise .length s := by
  cases i
  case confirmRxMac | confirmRxCipher | confirmRxCipherS =>
    exact confirmRx_bad_len (by simpa [admittedIn] using hadm) (by simpa [familyError] using hfam) h
  all_goals simp [checksLen] at hi

/-- The final length of LTX_CIPHER, written from LEN (43_legacy_wrapper.md R273). -/
theorem legacyTotal_eq {n o : Nat} (h : o ≤ n) :
    o + padlen (n - o + 2) 8 = n + 2 + (8 - (n - o + 2) % 8) % 8 := by
  unfold padlen
  omega

end Past

/-- Settles O53: one cause after another, in the order of the statement. -/
theorem lengthErrorsChangeNothing : Obligations.LengthErrorsChangeNothing := by
  unfold Obligations.LengthErrorsChangeNothing
  intro i s hadm hfam hskv h
  change exec i s = raise .length s
  rcases h with ⟨hi, hbad⟩ | ⟨hi, hbad⟩ | ⟨p, hp, hi, hm⟩ | ⟨p, rfl, hgrow⟩ | ⟨p, rfl, ho, hgrow⟩
  · exact exec_bad_range hadm hfam hskv hi (by omega)
  · exact exec_bad_len hadm hfam hi (by omega)
  · simp only [List.mem_cons, List.not_mem_nil, or_false] at hi
    obtain rfl | rfl | rfl := hi <;>
      exact doCrypto_partial_block (by simpa [admittedIn] using hadm) hp hm
  all_goals have hs : s.session = .session := by simpa [admittedIn] using hadm
  · obtain ⟨hp, hgrow⟩ | ⟨hp, hgrow⟩ := hgrow
    · exact (prepareTx_of_legacy hs hp).trans (whenRange_raise (whenFits_fail (by omega)))
    · exact (prepareTx_of_default hs hp).trans (whenRange_raise (whenFits_fail (by omega)))
  · obtain ⟨hp, hgrow⟩ | ⟨hp, hgrow⟩ := hgrow
    · rw [← legacyTotal_eq ho] at hgrow
      exact (prepareTx_of_legacy hs hp).trans (whenRange_raise (whenFits_fail (by omega)))
    · exact (prepareTx_of_default hs hp).trans (whenRange_raise (whenFits_fail (Nat.not_le.2 hgrow)))

end Sys2Proof.Machine
end

section
/-! SUPPORT. No command reads DEGENERATE (O56): a relation between the answers of two runs that differ in the flag,
with one rule for each operation a command is built from. -/

namespace Sys2Proof.Machine

/-- `r'` answers what `r` answers, but for DEGENERATE. -/
def AgreesButDegen (r r' : Result) : Prop :=
  ∀ t, r = .next t → ∃ d', r' = .next { t with degen := d' }

namespace AgreesButDegen

variable {s : State} {d : Bool} {k k' : Result}

/-- Two answers that are next states: they need to differ in the flag alone. -/
theorem next {t u : State} (h : u = { t with degen := u.degen }) :
    AgreesButDegen (.next t) (.next u) := by
  rintro _ ⟨⟩
  exact ⟨u.degen, by rw [← h]⟩

theorem done : AgreesButDegen (done s) (done { s with degen := d }) := next rfl

theorem raise {e : Err} : AgreesButDegen (raise e s) (raise e { s with degen := d }) := next rfl

theorem ite {c : Prop} [Decidable c] {q q' : Result} (h : AgreesButDegen k k')
    (hq : AgreesButDegen q q') : AgreesButDegen (if c then k else q) (if c then k' else q') := by
  split
  · exact h
  · exact hq

theorem whenKeyed (h : AgreesButDegen k k') :
    AgreesButDegen (whenKeyed s k) (whenKeyed { s with degen := d } k') := ite raise h

theorem whenSession (h : AgreesButDegen k k') :
    AgreesButDegen (whenSession s k) (whenSession { s with degen := d } k') := ite h raise

theorem whenRange (h : AgreesButDegen k k') :
    AgreesButDegen (whenRange s k) (whenRange { s with degen := d } k') := ite h raise

theorem whenLen (h : AgreesButDegen k k') :
    AgreesButDegen (whenLen s k) (whenLen { s with degen := d } k') := ite h raise

theorem whenFits {n' : Nat} (h : AgreesButDegen k k') :
    AgreesButDegen (whenFits s n' k) (whenFits { s with degen := d } n' k') := ite h raise

theorem withBuf {i j : Nat} {k k' : List Byte → Result} (h : ∀ x, AgreesButDegen (k x) (k' x)) :
    AgreesButDegen (withBuf s i j k) (withBuf { s with degen := d } i j k') := by
  intro t ht
  obtain ⟨x, hx, ht⟩ := withBuf_next.1 ht
  obtain ⟨d', hd'⟩ := h x t ht
  exact ⟨d', withBuf_next.2 ⟨x, hx, hd'⟩⟩

end AgreesButDegen

/-- The command `k` does the same whatever DEGENERATE holds. -/
def IgnoresDegen (k : State → Result) : Prop :=
  ∀ (s : State) (d : Bool), AgreesButDegen (k s) (k { s with degen := d })

/-! ### The integrity helpers, the primitive and the CMAC engine -/

theorem crcCommand_ignoresDegen (crc : Params → List Byte → BitVec 32) :
    IgnoresDegen (fun s => crcCommand (crc s.params) s) :=
  fun _ _ => .whenRange (.withBuf fun _ => .done)

theorem padlenCommand_ignoresDegen (len : Nat → Nat → Nat) (b : Byte) :
    IgnoresDegen (padlenCommand len b) :=
  fun _ _ => .ite .raise .done

theorem execRotate_ignoresDegen (k : Byte) : IgnoresDegen (execRotate k) :=
  fun _ _ => .whenRange (.ite .done (.withBuf fun _ => .done))

theorem doCrypto_ignoresDegen
    (F : BlockFns → Primitive → List Byte → List Byte → List Byte → List Byte × List Byte) :
    IgnoresDegen (doCrypto F) := by
  intro s d
  refine .whenKeyed ?_
  dsimp only
  split
  · exact .raise
  · exact .whenRange (.ite .raise (.withBuf fun _ => .done))

theorem execCmacSubkeys_ignoresDegen : IgnoresDegen execCmacSubkeys := by
  intro s d
  refine .whenKeyed ?_
  dsimp only
  split
  · exact .done
  · exact .raise
  · exact .raise

theorem execComputeCmac_ignoresDegen : IgnoresDegen execComputeCmac := by
  intro s d
  refine .whenKeyed ?_
  dsimp only
  split
  · exact .ite .raise (.whenRange (.withBuf fun _ => .done))
  · exact .raise
  · exact .raise

/-! ### Key setup and sessions: what they leave in DEGENERATE differs at most -/

theorem execSetupKey_ignoresDegen (c : CipherType) : IgnoresDegen (execSetupKey c) :=
  fun _ _ => .ite .done .raise

theorem sessionStart_withDegen (s : State) (d : Bool) :
    sessionStart { s with degen := d } = { sessionStart s with degen := d } := by
  unfold sessionStart
  dsimp only
  split <;> rfl

theorem execInitSession_ignoresDegen : IgnoresDegen execInitSession := by
  intro s d
  refine .whenKeyed (.whenRange ?_)
  rw [sessionStart_withDegen s d]
  exact .done

theorem execReinitSession_ignoresDegen : IgnoresDegen execReinitSession := by
  intro s d
  refine .whenKeyed (.whenRange ?_)
  rw [sessionStart_withDegen s d]
  exact .done

theorem execRelease_ignoresDegen : IgnoresDegen execRelease := fun _ _ => .done

/-! ### The mode dispatcher and its transforms -/

theorem prepareTx_ignoresDegen {legacy default : Primitive → State → Result}
    (hl : ∀ p, IgnoresDegen (legacy p)) (hd : ∀ p, IgnoresDegen (default p)) :
    IgnoresDegen (prepareTx legacy default) := by
  intro s d
  refine .whenSession ?_
  dsimp only
  split
  · exact .raise
  · exact .whenRange (hl _ s d)
  · exact .whenRange (hd _ s d)

theorem confirmRx_ignoresDegen {legacy default : Primitive → State → Result}
    (hl : ∀ p, IgnoresDegen (legacy p)) (hd : ∀ p, IgnoresDegen (default p)) :
    IgnoresDegen (confirmRx legacy default) := by
  intro s d
  refine .whenSession ?_
  dsimp only
  split
  · exact .raise
  · exact .whenLen (hl _ s d)
  · exact .whenLen (hd _ s d)

theorem execPlain_ignoresDegen : IgnoresDegen (fun s => whenSession s (done s)) :=
  fun _ _ => .whenSession .done

theorem legacyTxMac_ignoresDegen (p : Primitive) : IgnoresDegen (legacyTxMac p) :=
  fun _ _ => .whenFits (.withBuf fun _ => .done)

theorem legacyTxCipher_ignoresDegen (p : Primitive) : IgnoresDegen (legacyTxCipher p) :=
  fun _ _ => .whenFits (.withBuf fun _ => .done)

theorem defaultTxMac_ignoresDegen (p : Primitive) : IgnoresDegen (defaultTxMac p) :=
  fun _ _ => .whenFits (.withBuf fun _ => .done)

theorem defaultTxCipher_ignoresDegen (p : Primitive) : IgnoresDegen (defaultTxCipher p) :=
  fun _ _ => .whenFits (.withBuf fun _ => .done)

theorem legacyRxMac_ignoresDegen (p : Primitive) : IgnoresDegen (legacyRxMac p) :=
  fun _ _ => .ite .raise (.withBuf fun _ => .ite .raise .done)

theorem defaultRxMac_ignoresDegen (p : Primitive) : IgnoresDegen (defaultRxMac p) :=
  fun _ _ => .ite .raise (.withBuf fun _ => .ite .raise .done)

theorem legacyRxCipher_ignoresDegen (p : Primitive) : IgnoresDegen (legacyRxCipher p) := by
  intro s d
  refine .ite .raise (.withBuf fun _ => ?_)
  dsimp only [State.n, State.ivB]
  split
  · exact .done
  · exact .raise

theorem defaultRxCipher_ignoresDegen (p : Primitive) (status : Option Byte) :
    IgnoresDegen (defaultRxCipher p status) := by
  intro s d
  refine .ite .raise (.withBuf fun _ => ?_)
  dsimp only [State.n, State.ivB]
  split
  · exact .done
  · exact .raise

theorem exec_ignoresDegen (i : Instr) : IgnoresDegen (exec i) := by
  cases i with
  | setupKey c => exact execSetupKey_ignoresDegen c
  | initSession => exact execInitSession_ignoresDegen
  | reinitSession => exact execReinitSession_ignoresDegen
  | doCryptoEnc => exact doCrypto_ignoresDegen cbcEnc
  | doCryptoDec => exact doCrypto_ignoresDegen cbcDec
  | doCryptoMac => exact doCrypto_ignoresDegen cbcMac
  | cmacSubkeys => exact execCmacSubkeys_ignoresDegen
  | computeCmac => exact execComputeCmac_ignoresDegen
  | prepareTxPlain => exact execPlain_ignoresDegen
  | prepareTxMac => exact prepareTx_ignoresDegen legacyTxMac_ignoresDegen defaultTxMac_ignoresDegen
  | prepareTxCipher =>
    exact prepareTx_ignoresDegen legacyTxCipher_ignoresDegen defaultTxCipher_ignoresDegen
  | confirmRxPlain => exact execPlain_ignoresDegen
  | confirmRxMac => exact confirmRx_ignoresDegen legacyRxMac_ignoresDegen defaultRxMac_ignoresDegen
  | confirmRxCipher =>
    exact confirmRx_ignoresDegen legacyRxCipher_ignoresDegen fun p => defaultRxCipher_ignoresDegen p _
  | confirmRxCipherS status =>
    exact confirmRx_ignoresDegen legacyRxCipher_ignoresDegen fun p => defaultRxCipher_ignoresDegen p _
  | crc16 => exact crcCommand_ignoresDegen fun q x => (crc16Of q x).setWidth 32
  | crc32 => exact crcCommand_ignoresDegen crc32Of
  | crc32S status => exact crcCommand_ignoresDegen fun q => crc32Status q status
  | padlenZero b => exact padlenCommand_ignoresDegen padlen b
  | padlenCmac b => exact padlenCommand_ignoresDegen cmacPadlen b
  | rotate k => exact execRotate_ignoresDegen k
  | release => exact execRelease_ignoresDegen

/-- Settles O56: every command is built from operations that do not read the flag. -/
theorem degenerateFlagIsNeverRead : Obligations.DegenerateFlagIsNeverRead := by
  unfold Obligations.DegenerateFlagIsNeverRead
  intro i s t d h
  exact exec_ignoresDegen i s d t h

end Sys2Proof.Machine
end

section
/-! SUPPORT. What a host access of the register window does: a read has no side effect (O10), and a write other
than the issue of a command changes the byte it addresses and no other (O11). -/

namespace Sys2Proof.Machine

/-! ### The step that takes an access (20_memory.md R80, R82, R83) -/

theorem windowOffset_base_add (p : Params) {a : Nat} (h : a < 0x10000) :
    windowOffset p (p.base + a) = some a := by
  rw [windowOffset, if_pos ⟨by omega, by simpa [windowSize] using h⟩, Nat.add_sub_cancel_left]

theorem step_write {s : State} {addr a : Nat} {v : Byte} {rest : List HostEvent}
    (hp : s.pending = .write addr v :: rest) (ha : windowOffset s.params addr = some a)
    (hne : a ≠ issueOffset) :
    step s = .next (State.windowWrite { s with pending := rest } a v) := by
  simp [step, stepBus, hp, accept, acceptWrite, ha, hne]

/-- Settles O10: the address lies in the window, and its byte is the one read. -/
theorem hostReadHasNoSideEffect : Obligations.HostReadHasNoSideEffect := by
  unfold Obligations.HostReadHasNoSideEffect
  intro s a v rest ha hp hv
  exact step_read hp (windowOffset_base_add s.params ha) hv

/-! ### One byte of a register replaced (20_memory.md R85) -/

/-- Above its low byte a bit string is the part above that byte. -/
theorem extractLsb'_append_byte {n : Nat} (hi : BitVec n) (lo : Byte) (m k : Nat) :
    (hi ++ lo).extractLsb' (8 + m) k = hi.extractLsb' m k := by
  rw [BitVec.extractLsb'_append_eq_of_le (by omega), Nat.add_sub_cancel_left]

theorem byteOfWord_wordOfBytes (b0 b1 b2 b3 : Byte) :
    byteOfWord (wordOfBytes b0 b1 b2 b3) 0 = b0 ∧ byteOfWord (wordOfBytes b0 b1 b2 b3) 1 = b1 ∧
    byteOfWord (wordOfBytes b0 b1 b2 b3) 2 = b2 ∧ byteOfWord (wordOfBytes b0 b1 b2 b3) 3 = b3 := by
  have above_b0 (m : Nat) : (wordOfBytes b0 b1 b2 b3).extractLsb' (8 + m) 8 =
      (b3 ++ b2 ++ b1).extractLsb' m 8 := extractLsb'_append_byte ..
  have above_b1 (m : Nat) : (wordOfBytes b0 b1 b2 b3).extractLsb' (8 + (8 + m)) 8 =
      (b3 ++ b2).extractLsb' m 8 := (above_b0 _).trans (extractLsb'_append_byte ..)
  exact ⟨BitVec.extractLsb'_append_eq_right,
    (above_b0 0).trans BitVec.extractLsb'_append_eq_right,
    (above_b1 0).trans BitVec.extractLsb'_append_eq_right,
    (above_b1 8).trans BitVec.extractLsb'_append_eq_left⟩

theorem byteOfWord_setByteOfWord (w : BitVec 32) (v : Byte) {a x : Nat} (ha : a < 4) (hx : x < 4) :
    byteOfWord (setByteOfWord w a v) x = if x = a then v else byteOfWord w x := by
  interval_cases a <;> interval_cases x <;> simp [setByteOfWord, byteOfWord_wordOfBytes]

theorem byteOf16_append (hi lo : Byte) : byteOf16 (hi ++ lo) 0 = lo ∧ byteOf16 (hi ++ lo) 1 = hi :=
  ⟨BitVec.extractLsb'_append_eq_right, BitVec.extractLsb'_append_eq_left⟩

theorem byteOf16_setByteOf16 (w : BitVec 16) (v : Byte) {a x : Nat} (ha : a < 2) (hx : x < 2) :
    byteOf16 (setByteOf16 w a v) x = if x = a then v else byteOf16 w x := by
  interval_cases a <;> interval_cases x <;> simp [setByteOf16, byteOf16_append]

/-! ### What a host write stores (20_memory.md R83) -/

/-- The offsets whose bytes the host both writes and reads: CMD, LEN, OFS, KEYLEN and BUF (10_state.md R34).
KEY takes a byte too, and never shows it. -/
abbrev HostWritable (p : Params) (a : Nat) : Prop :=
  a < 0x04 ∨ (0x08 ≤ a ∧ a < 0x0C) ∨ a = 0x58 ∨ (0x100 ≤ a ∧ a < 0x100 + p.bufCap)

/-- From `s` to `t`, what a write of `v` to a window offset stores, and where. -/
inductive HostStore (s : State) (v : Byte) (a : Nat) : State → Prop
  | cmd (h : a < 0x04) : HostStore s v a { s with cmd := setByteOfWord s.cmd a v }
  | len (h : 0x08 ≤ a ∧ a < 0x0A) : HostStore s v a { s with len := setByteOf16 s.len (a - 0x08) v }
  | ofs (h : 0x0A ≤ a ∧ a < 0x0C) : HostStore s v a { s with ofs := setByteOf16 s.ofs (a - 0x0A) v }
  | key (h : 0x40 ≤ a ∧ a < 0x58) : HostStore s v a { s with key := setByte s.key (a - 0x40) v }
  | keylen (h : a = 0x58) : HostStore s v a { s with keylen := v }
  | buf (h : 0x100 ≤ a ∧ a < 0x100 + s.params.bufCap) : HostStore s v a { s with mem := s.mem.write a v }
  | ignored (hw : ¬ HostWritable s.params a) (hk : ¬ (0x40 ≤ a ∧ a < 0x58)) : HostStore s v a s

/-- Every host write is one of these stores. -/
theorem windowWrite_store (s : State) (a : Nat) (v : Byte) : HostStore s v a (s.windowWrite a v) := by
  unfold State.windowWrite bufBase
  split
  · exact .cmd (by omega)
  split
  · exact .ignored (by omega) (by omega)
  split
  · exact .len (by omega)
  split
  · exact .ofs (by omega)
  split
  · exact .ignored (by omega) (by omega)
  split
  · exact .key (by omega)
  split
  · exact .keylen (by omega)
  split
  · exact .ignored (by omega) (by omega)
  split
  · exact .buf (by omega)
  · exact .ignored (by omega) (by omega)

/-! ### What a host write shows in the window (10_state.md R34) -/

/-- From `s` to `t` the window changes in the byte at offset `a` alone, which then reads `v`. -/
def ShowsOnly (s t : State) (a : Nat) (v : Byte) : Prop :=
  ∀ x, t.windowRead x = if x = a then some v else s.windowRead x

/-- It is enough to look at the `n` bytes from `lo` up where nothing changes below and above them. -/
theorem ShowsOnly.of_range {s t : State} {lo a : Nat} {v : Byte} (n : Nat) (ha : lo ≤ a ∧ a < lo + n)
    (hin : ∀ i < n, t.windowRead (lo + i) = if i = a - lo then some v else s.windowRead (lo + i))
    (hbelow : ∀ x < lo, t.windowRead x = s.windowRead x)
    (habove : ∀ x, lo + n ≤ x → t.windowRead x = s.windowRead x) : ShowsOnly s t a v := by
  intro x
  by_cases hlo : x < lo
  · rw [hbelow x hlo, if_neg (by omega)]
  by_cases hhi : lo + n ≤ x
  · rw [habove x hhi, if_neg (by omega)]
  obtain ⟨i, rfl⟩ := Nat.exists_eq_add_of_le (not_lt.1 hlo)
  rw [hin i (by omega)]
  exact if_congr (by omega) rfl rfl

section Store

variable (s : State) (v : Byte) {a : Nat}

theorem storeCmd_showsOnly (h : a < 0x04) : ShowsOnly s { s with cmd := setByteOfWord s.cmd a v } a v := by
  have hread (u : State) {i : Nat} (hi : i < 4) : u.windowRead (0x00 + i) = some (byteOfWord u.cmd i) :=
    (windowRead_register u (by omega)).trans (congrArg some (registerByte_cmd u hi))
  refine .of_range 4 ⟨Nat.zero_le a, by omega⟩ (fun i hi => ?_)
    (fun x hx => absurd hx x.not_lt_zero) (fun x hx => ?_)
  · rw [hread _ hi, hread s hi, byteOfWord_setByteOfWord _ _ h hi, apply_ite some, Nat.sub_zero]
  · simp only [State.windowRead, State.registerByte, if_neg (show ¬ x < 0x04 by omega)]
    rfl

theorem storeLen_showsOnly (h : 0x08 ≤ a ∧ a < 0x0A) :
    ShowsOnly s { s with len := setByteOf16 s.len (a - 0x08) v } a v := by
  have hread (u : State) {i : Nat} (hi : i < 2) : u.windowRead (0x08 + i) = some (byteOf16 u.len i) :=
    (windowRead_register u (by omega)).trans (congrArg some (registerByte_len u hi))
  refine .of_range 2 h (fun i hi => ?_) (fun x hx => ?_) (fun x hx => ?_)
  · rw [hread _ hi, hread s hi, byteOf16_setByteOf16 _ _ (by omega) hi, apply_ite some]
  · interval_cases x <;> rfl
  · simp only [State.windowRead, State.registerByte, if_neg (show ¬ x < 0x0A by omega)]
    rfl

theorem storeOfs_showsOnly (h : 0x0A ≤ a ∧ a < 0x0C) :
    ShowsOnly s { s with ofs := setByteOf16 s.ofs (a - 0x0A) v } a v := by
  have hread (u : State) {i : Nat} (hi : i < 2) : u.windowRead (0x0A + i) = some (byteOf16 u.ofs i) :=
    (windowRead_register u (by omega)).trans (congrArg some (registerByte_ofs u hi))
  refine .of_range 2 h (fun i hi => ?_) (fun x hx => ?_) (fun x hx => ?_)
  · rw [hread _ hi, hread s hi, byteOf16_setByteOf16 _ _ (by omega) hi, apply_ite some]
  · interval_cases x <;> rfl
  · simp only [State.windowRead, State.registerByte, if_neg (show ¬ x < 0x0C by omega)]
    rfl

theorem storeKeylen_showsOnly : ShowsOnly s { s with keylen := v } 0x58 v := by
  intro x
  split
  case isTrue hx =>
    subst hx
    rfl
  case isFalse hx =>
    simp only [State.windowRead, State.registerByte, if_neg hx]
    rfl

theorem storeBuf_showsOnly (h : 0x100 ≤ a ∧ a < 0x100 + s.params.bufCap) :
    ShowsOnly s { s with mem := s.mem.write a v } a v := by
  refine .of_range s.params.bufCap h (fun i hi => ?_) (fun x hx => ?_) (fun x hx => ?_)
  · refine (windowRead_buf _ (by exact hi)).trans ((Memory.read_write ..).trans ?_)
    exact if_congr (by omega) rfl (windowRead_buf s hi).symm
  · exact (windowRead_register _ hx).trans (windowRead_register s hx).symm
  · exact (windowRead_above _ (by exact hx)).trans (windowRead_above s hx).symm

end Store

namespace HostStore

variable {s t : State} {v : Byte} {a : Nat}

/-- A byte stored at a writable offset shows there, and no other byte of the window changes. -/
theorem windowRead (h : HostStore s v a t) (x : Nat) :
    t.windowRead x = if x = a ∧ HostWritable s.params a then some v else s.windowRead x := by
  have shows (hs : ShowsOnly s t a v) (hw : HostWritable s.params a) :
      t.windowRead x = if x = a ∧ HostWritable s.params a then some v else s.windowRead x := by
    simpa only [hw, and_true] using hs x
  have hidden (ht : t.windowRead x = s.windowRead x) (hw : ¬ HostWritable s.params a) :
      t.windowRead x = if x = a ∧ HostWritable s.params a then some v else s.windowRead x := by
    rw [ht, if_neg (fun hx => hw hx.2)]
  cases h with
  | cmd h => exact shows (storeCmd_showsOnly s v h) (by omega)
  | len h => exact shows (storeLen_showsOnly s v h) (by omega)
  | ofs h => exact shows (storeOfs_showsOnly s v h) (by omega)
  | key h => exact hidden (windowRead_ignores_keys s _ s.pkey x) (by omega)
  | keylen h => exact shows (h ▸ storeKeylen_showsOnly s v) (by omega)
  | buf h => exact shows (storeBuf_showsOnly s v h) (by omega)
  | ignored hw _ => exact hidden rfl hw

/-- KEY takes the byte stored at one of its offsets, and keeps every other. -/
theorem key_getElem? (h : HostStore s v a t) {i : Nat} (hi : i < 24) :
    t.key.val[i]? = if a = 0x40 + i then some v else s.key.val[i]? := by
  cases h with
  | key h =>
    have hlen : a - 0x40 < s.key.val.length := by rw [s.key.property]; omega
    rw [setByte, List.getElem?_set, if_pos hlen]
    exact if_congr (by omega) rfl rfl
  | _ => exact (if_neg (by omega)).symm

end HostStore

/-- Settles O11: the step is the host write, and each store shows in the byte it addresses alone. -/
theorem hostWriteChangesOneByte : Obligations.HostWriteChangesOneByte := by
  unfold Obligations.HostWriteChangesOneByte
  intro s a v rest ha hne hp
  have hstore := windowWrite_store { s with pending := rest } a v
  refine ⟨_, step_write hp (windowOffset_base_add s.params ha) hne, by simp, by simp, ?window,
    by simp, ?key⟩
  case window => exact hstore.windowRead
  case key => exact fun i hi => hstore.key_getElem? hi

end Sys2Proof.Machine
end

section
/-! SUPPORT. The decoder and the encoder of spec/30_encoding.md are inverse to each other (O1, O2, O4): at most one
row of the decode table selects a word (O3), so a word decodes to what its row makes of IMM8. -/

namespace Sys2Proof

/-! ### Fields and bytes of a word (30_encoding.md R112, 20_memory.md R85) -/

theorem fieldOpc_and (w m : BitVec 32) : fieldOpc (w &&& m) = fieldOpc w &&& fieldOpc m :=
  BitVec.extractLsb'_and

theorem fieldImm8_withImm8 (bits : BitVec 32) (v : Byte) :
    fieldImm8 (withImm8 bits v) = fieldImm8 bits ||| v := by
  ext k hk
  have hbit : 16 + k < 32 := by omega
  simp [fieldImm8, withImm8, hbit, BitVec.getLsbD_eq_getElem hk]

/-- A word is its bits outside IMM8 with IMM8 put back (R127). -/
theorem withImm8_fieldImm8 (w : BitVec 32) : withImm8 (w &&& 0xFF00FFFF) (fieldImm8 w) = w := by
  ext k hk
  interval_cases k <;> simp [fieldImm8, withImm8]

theorem wordOfBytes_byteOfWord (w : BitVec 32) :
    wordOfBytes (byteOfWord w 0) (byteOfWord w 1) (byteOfWord w 2) (byteOfWord w 3) = w := by
  have h10 : byteOfWord w 1 ++ byteOfWord w 0 = w.extractLsb' 0 16 :=
    BitVec.extractLsb'_append_extractLsb'_eq_extractLsb' rfl
  have h210 : byteOfWord w 2 ++ w.extractLsb' 0 16 = w.extractLsb' 0 24 :=
    BitVec.extractLsb'_append_extractLsb'_eq_extractLsb' rfl
  have h3210 : byteOfWord w 3 ++ w.extractLsb' 0 24 = w :=
    BitVec.extractLsb'_append_extractLsb'
  calc wordOfBytes (byteOfWord w 0) (byteOfWord w 1) (byteOfWord w 2) (byteOfWord w 3)
      = byteOfWord w 3 ++ (byteOfWord w 2 ++ (byteOfWord w 1 ++ byteOfWord w 0)) := by
        simp only [wordOfBytes, BitVec.append_assoc, BitVec.cast_eq]
    _ = w := by rw [h10, h210, h3210]

theorem decode_bytesOfWord (w : BitVec 32) :
    decode (bytesOfWord w) = (decodeWord w).map fun i => (i, []) := by
  rw [bytesOfWord, decode, wordOfBytes_byteOfWord]
  cases decodeWord w <;> rfl

/-! ### The rows (30_encoding.md R120) -/

namespace DecodeRow

@[simp] theorem selects_iff {r : DecodeRow} {w : BitVec 32} : r.selects w = true ↔ w &&& r.mask = r.bits :=
  beq_iff_eq

/-- Two rows that ask for different values of the bits both look at select no word together. -/
theorem not_selects_both {r q : DecodeRow} (h : r.bits &&& q.mask ≠ q.bits &&& r.mask) (w : BitVec 32) :
    ¬ (r.selects w = true ∧ q.selects w = true) := by
  rintro ⟨hr, hq⟩
  apply h
  calc r.bits &&& q.mask = w &&& r.mask &&& q.mask := by rw [selects_iff.1 hr]
    _ = w &&& q.mask &&& r.mask := by rw [BitVec.and_assoc, BitVec.and_comm r.mask, ← BitVec.and_assoc]
    _ = q.bits &&& r.mask := by rw [selects_iff.1 hq]

end DecodeRow

/-- Settles O3: any two rows ask for different values of the bits that both look at. -/
theorem decodeRowsDoNotOverlap : Obligations.DecodeRowsDoNotOverlap := by
  unfold Obligations.DecodeRowsDoNotOverlap
  have conflict : decodeTable.Pairwise fun r q => r.bits &&& q.mask ≠ q.bits &&& r.mask := by decide
  exact conflict.imp DecodeRow.not_selects_both

/-- No row asks for a value of IMM8. -/
theorem decodeTable_fieldImm8 : ∀ r ∈ decodeTable, fieldImm8 r.bits = 0 ∧ r.bits &&& 0xFF00FFFF = r.bits := by
  decide

/-- Every row fixes OPC, at one of the codes 0x01 to 0x0D (R115). -/
theorem decodeTable_fieldOpc :
    ∀ r ∈ decodeTable, fieldOpc r.mask = 0xFF ∧ fieldOpc r.bits ≠ 0x00 ∧ fieldOpc r.bits < 0x0E := by
  decide

/-! ### The decoder from its rows (30_encoding.md R126) -/

theorem mem_and_selects_of_find? {r : DecodeRow} {w : BitVec 32}
    (h : decodeTable.find? (fun q => q.selects w) = some r) : r ∈ decodeTable ∧ r.selects w = true :=
  ⟨List.mem_of_find?_eq_some h, List.find?_some (p := fun q : DecodeRow => q.selects w) h⟩

/-- The loop of R126 ends at the one row that selects the word. -/
theorem find?_selects {r : DecodeRow} {w : BitVec 32} (hr : r ∈ decodeTable) (hw : r.selects w = true) :
    decodeTable.find? (fun q => q.selects w) = some r := by
  cases hfind : decodeTable.find? fun q => q.selects w with
  | none => exact absurd hw (List.find?_eq_none.1 hfind r hr)
  | some q =>
    obtain ⟨hmem, hq⟩ := mem_and_selects_of_find? hfind
    by_contra hne
    have : Std.Symm fun r q : DecodeRow => ∀ w, ¬ (r.selects w = true ∧ q.selects w = true) :=
      ⟨fun _ _ h w => mt And.symm (h w)⟩
    exact decodeRowsDoNotOverlap.forall hr hmem (fun h => hne (congrArg some h.symm)) w ⟨hw, hq⟩

/-- Where a row selects a word, the word decodes to what the row makes of IMM8. -/
theorem decodeWord_eq_ok_iff_of_selects {r : DecodeRow} {w : BitVec 32} (hr : r ∈ decodeTable)
    (hw : r.selects w = true) (i : Instr) : decodeWord w = .ok i ↔ r.make (fieldImm8 w) = some i := by
  rw [decodeWord, find?_selects hr hw]
  cases h : r.make (fieldImm8 w) <;> simp [h]

theorem exists_row_of_decodeWord {w : BitVec 32} {i : Instr} (h : decodeWord w = .ok i) :
    ∃ r ∈ decodeTable, r.selects w = true ∧ r.make (fieldImm8 w) = some i := by
  cases hfind : decodeTable.find? fun r => r.selects w with
  | none =>
    rw [decodeWord, hfind] at h
    dsimp only at h
    split at h <;> cases h
  | some r =>
    obtain ⟨hr, hw⟩ := mem_and_selects_of_find? hfind
    exact ⟨r, hr, hw, (decodeWord_eq_ok_iff_of_selects hr hw i).1 h⟩

/-! ### Decoding an encoded command (30_encoding.md R127) -/

theorem cipherTypeOfImm8_eq_some_iff {v : Byte} {t : CipherType} :
    cipherTypeOfImm8 v = some t ↔ v = t.code := by
  cases t <;> revert v <;> decide

/-- The word of a command with operand: its row selects it, and gets the operand back. -/
theorem decodeWord_withImm8 {r : DecodeRow} (hr : r ∈ decodeTable) (hmask : r.mask = 0xFF00FFFF) {v : Byte}
    {i : Instr} (hmake : r.make v = some i) : decodeWord (withImm8 r.bits v) = .ok i := by
  obtain ⟨himm8, hbits⟩ := decodeTable_fieldImm8 r hr
  have hw : r.selects (withImm8 r.bits v) = true := by
    rw [DecodeRow.selects_iff, hmask, Laws.withImm8_and, hbits]
  rw [decodeWord_eq_ok_iff_of_selects hr hw, fieldImm8_withImm8, himm8,
    show (0 : Byte) ||| v = v from BitVec.zero_or, hmake]

/-- Every command's word decodes to it; a command with operand is read by its row, numbered from 0 as in R120. -/
theorem decodeWord_encodeWord {i : Instr} (hi : i.wellFormed = true) : decodeWord (encodeWord i) = .ok i := by
  cases i with
  | setupKey t =>
    exact decodeWord_withImm8 (r := decodeTable[0]) (List.getElem_mem _) rfl
      (Option.map_eq_some_iff.2 ⟨t, cipherTypeOfImm8_eq_some_iff.2 rfl, rfl⟩)
  | confirmRxCipherS s => exact decodeWord_withImm8 (r := decodeTable[14]) (List.getElem_mem _) rfl rfl
  | crc32S s => exact decodeWord_withImm8 (r := decodeTable[17]) (List.getElem_mem _) rfl rfl
  | padlenZero b =>
    exact decodeWord_withImm8 (r := decodeTable[18]) (List.getElem_mem _) rfl (if_neg (bne_iff_ne.1 hi))
  | padlenCmac b =>
    exact decodeWord_withImm8 (r := decodeTable[19]) (List.getElem_mem _) rfl (if_neg (bne_iff_ne.1 hi))
  | rotate k => exact decodeWord_withImm8 (r := decodeTable[20]) (List.getElem_mem _) rfl rfl
  | _ => decide

/-- Settles O1: the word by its row, and its four bytes put it together again. -/
theorem decodeOfEncodeIsTheCommand : Obligations.DecodeOfEncodeIsTheCommand := by
  unfold Obligations.DecodeOfEncodeIsTheCommand
  intro i hi
  refine ⟨decodeWord_encodeWord hi, ?bytes⟩
  rw [encode, decode_bytesOfWord, decodeWord_encodeWord hi]
  rfl

/-! ### Encoding a decoded word (30_encoding.md R127) -/

/-- What a row makes of a word it selects is a command whose word it is. -/
def DecodeRow.Encodes (r : DecodeRow) : Prop :=
  ∀ (w : BitVec 32) (i : Instr), r.selects w = true → r.make (fieldImm8 w) = some i →
    i.wellFormed = true ∧ encodeWord i = w

namespace DecodeRow

/-- A row without operand selects one word. -/
theorem encodes_of_fullMask {name : String} {bits : BitVec 32} {i : Instr} (hi : i.wellFormed = true)
    (hword : encodeWord i = bits) : Encodes ⟨name, bits, 0xFFFFFFFF, fun _ => some i⟩ := by
  intro w j hw hmake
  obtain rfl := Option.some.inj hmake
  have hbits : w &&& BitVec.allOnes 32 = bits := selects_iff.1 hw
  exact ⟨hi, by rw [hword, ← hbits, BitVec.and_allOnes]⟩

/-- A row with operand selects its bits with any IMM8. -/
theorem encodes_of_operand {name : String} {bits : BitVec 32} {make : Byte → Option Instr}
    (h : ∀ v i, make v = some i → i.wellFormed = true ∧ encodeWord i = withImm8 bits v) :
    Encodes ⟨name, bits, 0xFF00FFFF, make⟩ := by
  intro w i hw hmake
  obtain ⟨hi, hword⟩ := h _ i hmake
  have hbits : w &&& 0xFF00FFFF = bits := selects_iff.1 hw
  exact ⟨hi, by rw [hword, ← hbits, withImm8_fieldImm8]⟩

theorem encodes_setupKey {name : String} :
    Encodes ⟨name, 0x00000001, 0xFF00FFFF, fun v => (cipherTypeOfImm8 v).map .setupKey⟩ := by
  refine encodes_of_operand fun v i h => ?_
  obtain ⟨t, ht, rfl⟩ := Option.map_eq_some_iff.1 h
  exact ⟨rfl, by rw [cipherTypeOfImm8_eq_some_iff.1 ht]; rfl⟩

/-- A row whose every operand is legal. -/
theorem encodes_of_total {name : String} {bits : BitVec 32} {make : Byte → Instr}
    (hwf : ∀ v, (make v).wellFormed = true) (hword : ∀ v, encodeWord (make v) = withImm8 bits v) :
    Encodes ⟨name, bits, 0xFF00FFFF, fun v => some (make v)⟩ :=
  encodes_of_operand fun v _ h => Option.some.inj h ▸ ⟨hwf v, hword v⟩

/-- A row whose operand is a block size, at least 1. -/
theorem encodes_of_ne_zero {name : String} {bits : BitVec 32} {make : Byte → Instr}
    (hwf : ∀ v, v ≠ 0 → (make v).wellFormed = true) (hword : ∀ v, encodeWord (make v) = withImm8 bits v) :
    Encodes ⟨name, bits, 0xFF00FFFF, fun v => if v = 0 then none else some (make v)⟩ := by
  refine encodes_of_operand fun v i h => ?_
  obtain ⟨hv, hmake⟩ := Option.ite_none_left_eq_some.1 h
  obtain rfl := Option.some.inj hmake
  exact ⟨hwf v hv, hword v⟩

theorem decodeTable_encodes : ∀ r ∈ decodeTable, r.Encodes := by
  have core : ∀ r ∈ decodeTableCore, r.Encodes := by
    simp only [decodeTableCore, List.forall_mem_cons]
    exact ⟨encodes_setupKey, encodes_of_fullMask rfl rfl, encodes_of_fullMask rfl rfl,
      encodes_of_fullMask rfl rfl, encodes_of_fullMask rfl rfl, encodes_of_fullMask rfl rfl,
      encodes_of_fullMask rfl rfl, encodes_of_fullMask rfl rfl, List.forall_mem_nil _⟩
  have transfer : ∀ r ∈ decodeTableTransfer, r.Encodes := by
    simp only [decodeTableTransfer, List.forall_mem_cons]
    exact ⟨encodes_of_fullMask rfl rfl, encodes_of_fullMask rfl rfl, encodes_of_fullMask rfl rfl,
      encodes_of_fullMask rfl rfl, encodes_of_fullMask rfl rfl, encodes_of_fullMask rfl rfl,
      encodes_of_total (fun _ => rfl) (fun _ => rfl), List.forall_mem_nil _⟩
  have helpers : ∀ r ∈ decodeTableHelpers, r.Encodes := by
    simp only [decodeTableHelpers, List.forall_mem_cons]
    exact ⟨encodes_of_fullMask rfl rfl, encodes_of_fullMask rfl rfl, encodes_of_total (fun _ => rfl) (fun _ => rfl),
      encodes_of_ne_zero (fun _ => bne_iff_ne.2) (fun _ => rfl),
      encodes_of_ne_zero (fun _ => bne_iff_ne.2) (fun _ => rfl),
      encodes_of_total (fun _ => rfl) (fun _ => rfl), encodes_of_fullMask rfl rfl, List.forall_mem_nil _⟩
  exact List.forall_mem_append.2 ⟨List.forall_mem_append.2 ⟨core, transfer⟩, helpers⟩

end DecodeRow

/-- Settles O2: the word is one its row selects, and every row encodes what it makes. -/
theorem encodeOfDecodeIsTheWord : Obligations.EncodeOfDecodeIsTheWord := by
  unfold Obligations.EncodeOfDecodeIsTheWord
  intro w i h
  obtain ⟨r, hr, hw, hmake⟩ := exists_row_of_decodeWord h
  exact DecodeRow.decodeTable_encodes r hr w i hw hmake

/-- Settles O4: each of the six words is the one its command encodes to. -/
theorem sampleWordsDecode : Obligations.SampleWordsDecode := by
  unfold Obligations.SampleWordsDecode
  exact ⟨decodeWord_encodeWord (i := .setupKey .aes128) rfl, decodeWord_encodeWord (i := .doCryptoDec) rfl,
    decodeWord_encodeWord (i := .computeCmac) rfl, decodeWord_encodeWord (i := .confirmRxCipherS 0x90) rfl,
    decodeWord_encodeWord (i := .padlenCmac 16) rfl, decodeWord_encodeWord (i := .release) rfl⟩

end Sys2Proof
end

section
/-! SUPPORT. The write to CMD byte 3 issues the word in CMD: a command runs (O6, O7), an illegal word raises ILLEGAL
(O5). -/

namespace Sys2Proof

/-! ### Illegal words (30_encoding.md R123) -/

theorem decodeWord_ne_ok_of_fieldOpc {w : BitVec 32} (h : fieldOpc w = 0x00 ∨ (0x0E : Byte) ≤ fieldOpc w)
    (i : Instr) : decodeWord w ≠ .ok i := by
  intro hdec
  obtain ⟨r, hr, hw, _⟩ := exists_row_of_decodeWord hdec
  obtain ⟨hmask, hzero, hlt⟩ := decodeTable_fieldOpc r hr
  have hopc : fieldOpc w = fieldOpc r.bits := by
    rw [← DecodeRow.selects_iff.1 hw, fieldOpc_and, hmask]
    exact BitVec.and_allOnes.symm
  rcases h with h | h
  · exact hzero (hopc ▸ h)
  · exact absurd (hopc ▸ hlt) (BitVec.not_lt.2 h)

theorem decodeWord_ne_ok_of_no_row {w : BitVec 32} (h : ∀ r ∈ decodeTable, w &&& r.mask ≠ r.bits) (i : Instr) :
    decodeWord w ≠ .ok i := by
  intro hdec
  obtain ⟨r, hr, hw, _⟩ := exists_row_of_decodeWord hdec
  exact h r hr (DecodeRow.selects_iff.1 hw)

/-- A word that breaks the value constraint of its row. -/
theorem decodeWord_ne_ok_of_make {r : DecodeRow} {w : BitVec 32} (hr : r ∈ decodeTable)
    (hw : w &&& r.mask = r.bits) (hmake : r.make (fieldImm8 w) = none) (i : Instr) : decodeWord w ≠ .ok i := by
  rw [Ne, decodeWord_eq_ok_iff_of_selects hr (DecodeRow.selects_iff.2 hw), hmake]
  exact nofun

theorem cipherTypeOfImm8_eq_none {v : Byte} (h : (5 : Byte) ≤ v) : cipherTypeOfImm8 v = none := by
  refine Option.eq_none_iff_forall_ne_some.2 fun t ht => ?_
  obtain rfl := cipherTypeOfImm8_eq_some_iff.1 ht
  revert h
  cases t <;> decide

end Sys2Proof

namespace Sys2Proof.Machine

/-! ### The issue (30_encoding.md R111) -/

theorem issue_of_decodeWord_ok {s : State} {i : Instr} (h : decodeWord s.cmd = .ok i) : issue s = exec i s := by
  rw [issue, h]

theorem issue_of_illegal {s : State} (h : ∀ i, decodeWord s.cmd ≠ .ok i) :
    issue s = .next (s.failed .illegal) := by
  unfold issue
  split
  next i hi => exact absurd hi (h i)
  next => rfl

/-- The step that takes a write to CMD byte 3 (20_memory.md R83). -/
theorem step_issue {s : State} {v : Byte} {rest : List HostEvent}
    (hp : s.pending = .write (s.params.base + 3) v :: rest) :
    step s = issue { s with pending := rest, cmd := setByteOfWord s.cmd 3 v } := by
  have hoff : windowOffset s.params (s.params.base + 3) = some issueOffset :=
    windowOffset_base_add s.params (by decide)
  simp only [step, stepBus, hp, accept, acceptWrite, hoff]
  rfl

/-- Settles O6: the step is the issue of the word with byte 3 stored. -/
theorem stepRunsTheDecodedCommand : Obligations.StepRunsTheDecodedCommand := by
  unfold Obligations.StepRunsTheDecodedCommand
  intro s v rest i hp hdec
  rw [step_issue hp, issue_of_decodeWord_ok hdec]

/-- Settles O5: each of the four kinds of illegal word decodes to no command. -/
theorem illegalWordRaisesIllegal : Obligations.IllegalWordRaisesIllegal := by
  unfold Obligations.IllegalWordRaisesIllegal
  intro s v rest w hp hw hillegal
  subst hw
  rw [step_issue hp]
  refine issue_of_illegal ?_
  rcases hillegal with hopc | hrow | ⟨hsetup, himm8⟩ | ⟨hzero | hcmac, himm8⟩
  · exact decodeWord_ne_ok_of_fieldOpc hopc
  · exact decodeWord_ne_ok_of_no_row hrow
  · exact decodeWord_ne_ok_of_make (r := decodeTable[0]) (List.getElem_mem _) hsetup
      (congrArg (Option.map Instr.setupKey) (cipherTypeOfImm8_eq_none himm8))
  · exact decodeWord_ne_ok_of_make (r := decodeTable[18]) (List.getElem_mem _) hzero (if_pos himm8)
  · exact decodeWord_ne_ok_of_make (r := decodeTable[19]) (List.getElem_mem _) hcmac (if_pos himm8)

/-- Whatever byte 3 was, writing that of the word completes the word (30_encoding.md R128). -/
theorem setByteOfWord_withIssueOf (s : State) (w : BitVec 32) :
    setByteOfWord (s.withIssueOf w).cmd 3 (byteOfWord w 3) = w := by
  have hbyte {x : Nat} (hx : x < 3) : byteOfWord (s.withIssueOf w).cmd x = byteOfWord w x := by
    rw [withIssueOf_cmd, byteOfWord_setByteOfWord _ _ (by omega) (by omega), if_neg (by omega)]
  calc setByteOfWord (s.withIssueOf w).cmd 3 (byteOfWord w 3)
      = wordOfBytes (byteOfWord (s.withIssueOf w).cmd 0) (byteOfWord (s.withIssueOf w).cmd 1)
          (byteOfWord (s.withIssueOf w).cmd 2) (byteOfWord w 3) := rfl
    _ = w := by rw [hbyte (by omega), hbyte (by omega), hbyte (by omega), wordOfBytes_byteOfWord]

theorem withFetchWord_toNat (s : State) (w : BitVec 32) : s.withFetchWord 32 w.toNat = s.withIssueOf w := by
  rw [State.withFetchWord, Nat.mod_eq_of_lt w.isLt, BitVec.ofNat_toNat, BitVec.setWidth_eq]

/-- Settles O7: the step issues the command's word, which decodes to the command (O1). -/
theorem issuedWordRuns : Obligations.IssuedWordRuns := by
  unfold Obligations.IssuedWordRuns
  intro i s hi
  have hword := setByteOfWord_withIssueOf s (encodeWord i)
  rw [withFetchWord_toNat, stepRunsTheDecodedCommand _ _ _ i (withIssueOf_pending s (encodeWord i))
    (hword.symm ▸ decodeWord_encodeWord hi), hword]
  rfl

end Sys2Proof.Machine
end

section
/-! SUPPORT. Undoing a run of rounds, blocks as bit strings, and that DES decryption undoes DES encryption (O21). -/

namespace Sys2Proof.Machine

/-! ### Undoing what was done -/

/-- A run of steps is undone by undoing its steps in reverse order, on representations changed by `h`. -/
theorem foldl_reverse_undoes {σ κ : Type} {f g : σ → κ → σ} {h : σ → σ} {ok : σ → Prop} {ks : List κ}
    (hok : ∀ s, ok s → ∀ k ∈ ks, ok (f s k)) (hundo : ∀ s, ok s → ∀ k ∈ ks, g (h (f s k)) k = h s)
    {s : σ} (hs : ok s) : ks.reverse.foldl g (h (ks.foldl f s)) = h s := by
  induction ks generalizing s with
  | nil => rfl
  | cons k ks ih =>
    have hrest := ih (fun u hu r hr => hok u hu r (by simp [hr]))
      (fun u hu r hr => hundo u hu r (by simp [hr])) (hok s hs k (by simp))
    rw [List.reverse_cons, List.foldl_append, List.foldl_cons (f := f), hrest]
    exact hundo s hs k (by simp)

/-- Blocks of one length are finitely many: a map of them that can be undone reaches every one. -/
theorem rightInverse_of_leftInverse {n : Nat} {E D : List Byte → List Byte}
    (hE : ∀ x, x.length = n → (E x).length = n) (hD : ∀ x, x.length = n → D (E x) = x)
    {y : List Byte} (hy : y.length = n) : E (D y) = y := by
  have : Finite {x : List Byte // x.length = n} := List.finite_length_eq Byte n
  have hinj : Function.Injective (fun x : {x : List Byte // x.length = n} =>
      (⟨E x.1, hE x.1 x.2⟩ : {x : List Byte // x.length = n})) := by
    intro x x' hxx'
    have hval := congrArg (fun z => D z.1) hxx'
    exact Subtype.ext (by rw [← hD x.1 x.2, ← hD x'.1 x'.2]; exact hval)
  obtain ⟨⟨x, hx⟩, hxy⟩ := Finite.surjective_of_injective hinj ⟨y, hy⟩
  obtain rfl : E x = y := congrArg Subtype.val hxy
  rw [hD x hx]

/-! ### Blocks and bit strings (00_scope.md R14) -/

@[simp] theorem beNat_concat (s : List Byte) (d : Byte) : beNat (s ++ [d]) = beNat s * 256 + d.toNat := by
  simp [beNat]

theorem beNat_lt (s : List Byte) : beNat s < 2 ^ (8 * s.length) := by
  induction s using List.reverseRecOn with
  | nil => decide
  | append_singleton s d ih =>
    rw [beNat_concat, List.length_append, List.length_singleton, Nat.mul_add, Nat.pow_add]
    have := d.isLt
    omega

/-- Byte `i` of a string, taken from its number. -/
theorem beNat_div_mod {s : List Byte} {i : Nat} (h : i < s.length) :
    beNat s / 2 ^ (8 * (s.length - 1 - i)) % 2 ^ 8 = s[i].toNat := by
  induction s using List.reverseRecOn with
  | nil => simp at h
  | append_singleton s d ih =>
    rw [List.length_append, List.length_singleton] at h
    rcases Nat.lt_or_ge i s.length with hi | hi
    · have hexp : 2 ^ (8 * ((s ++ [d]).length - 1 - i)) = 256 * 2 ^ (8 * (s.length - 1 - i)) := by
        rw [show 8 * ((s ++ [d]).length - 1 - i) = 8 + 8 * (s.length - 1 - i) by simp; omega, Nat.pow_add]
      have := d.isLt
      rw [beNat_concat, hexp, ← Nat.div_div_eq_div_mul, show (beNat s * 256 + d.toNat) / 256 = beNat s by omega,
        List.getElem_append_left hi, ih hi]
    · obtain rfl : i = s.length := by omega
      have := d.isLt
      simp
      omega

/-- A block comes back from its bit string. -/
theorem blockOfBits_bitsOfBlock {b : Nat} {s : List Byte} (h : s.length = b) :
    blockOfBits b (bitsOfBlock (8 * b) s) = s := by
  subst h
  refine List.ext_getElem (by simp) fun i _ hi => BitVec.eq_of_toNat_eq ?_
  simpa [blockOfBits, bitsOfBlock, Nat.mod_eq_of_lt (beNat_lt s), Nat.shiftRight_eq_div_pow] using
    beNat_div_mod hi

theorem blockOfBits_injective {b : Nat} : Function.Injective (blockOfBits b) := by
  intro x y hxy
  refine BitVec.eq_of_getLsbD_eq fun j hj => ?_
  have hi : b - 1 - j / 8 < b := by omega
  have hbyte := List.map_inj_left.1 hxy _ (List.mem_range.2 hi)
  have hbit := congrArg (fun v : Byte => v.getLsbD (j % 8)) hbyte
  have hpos : 8 * (b - 1 - (b - 1 - j / 8)) + j % 8 = j := by omega
  simpa [BitVec.getLsbD_extractLsb', hpos, Nat.mod_lt] using hbit

/-- A bit string comes back from its block. -/
theorem bitsOfBlock_blockOfBits {b : Nat} (x : BitVec (8 * b)) :
    bitsOfBlock (8 * b) (blockOfBits b x) = x :=
  blockOfBits_injective (blockOfBits_bitsOfBlock (blockOfBits_length b x))

theorem onBlock64_cancel {f g : BitVec 64 → BitVec 64} (h : ∀ x, g (f x) = x) {x : List Byte}
    (hx : x.length = 8) : onBlock64 g (onBlock64 f x) = x := by
  unfold onBlock64
  rw [bitsOfBlock_blockOfBits (b := 8), h, blockOfBits_bitsOfBlock hx]

theorem onBlock128_cancel {f g : BitVec 128 → BitVec 128} (h : ∀ x, g (f x) = x) {x : List Byte}
    (hx : x.length = 16) : onBlock128 g (onBlock128 f x) = x := by
  unfold onBlock128
  rw [bitsOfBlock_blockOfBits (b := 16), h, blockOfBits_bitsOfBlock hx]

/-! ### DES (41_block_ciphers.md R190-R199) -/

/-- Bit `i` of the number that `permute` builds. -/
theorem testBit_foldl_bits {n : Nat} (x : BitVec n) {T : List Nat} {i : Nat} (h : i < T.length) :
    (T.foldl (fun acc k => 2 * acc + (x.getMsbD (k - 1)).toNat) 0).testBit (T.length - 1 - i) =
      x.getMsbD (T[i] - 1) := by
  induction T using List.reverseRecOn with
  | nil => simp at h
  | append_singleton T k ih =>
    rw [List.length_append, List.length_singleton] at h
    rw [List.foldl_append, List.foldl_cons, List.foldl_nil, List.length_append, List.length_singleton]
    rcases Nat.lt_or_ge i T.length with hi | hi
    · have hhigh (a : Nat) (c : Bool) : (2 * a + c.toNat) / 2 = a := by cases c <;> simp; omega
      rw [show T.length + 1 - 1 - i = T.length - 1 - i + 1 by omega, Nat.testBit_succ, hhigh, ih hi,
        List.getElem_append_left hi]
    · obtain rfl : i = T.length := by omega
      cases hbit : x.getMsbD (k - 1) <;> simp [hbit]

/-- Bit i of a permutation's result is bit T[i] of its argument (41_block_ciphers.md R190). -/
theorem getMsbD_permute {n m : Nat} {T : List Nat} (x : BitVec n) (hT : T.length = m) {i : Nat} (hi : i < m) :
    (permute m T x).getMsbD i = x.getMsbD (T.getD i 0 - 1) := by
  subst hT
  have hlow : T.length - 1 - i < T.length := by omega
  rw [permute, BitVec.getMsbD, BitVec.getLsbD_ofNat, testBit_foldl_bits x hi, List.getD_eq_getElem _ _ hi]
  simp [hi, hlow]

/-- A table that takes every bit back to its place undoes the other. -/
theorem permute_permute {n m : Nat} {T S : List Nat} (x : BitVec n) (hT : T.length = m) (hS : S.length = n)
    (h : ∀ i < n, S.getD i 0 - 1 < m ∧ T.getD (S.getD i 0 - 1) 0 - 1 = i) :
    permute n S (permute m T x) = x := by
  refine BitVec.eq_of_getMsbD_eq fun i hi => ?_
  obtain ⟨hm, hback⟩ := h i hi
  rw [getMsbD_permute _ hS hi, getMsbD_permute _ hT hm, hback]

theorem desFP_desIP (x : BitVec 64) : permute 64 desFP (permute 64 desIP x) = x :=
  permute_permute x rfl rfl (by decide)

theorem desIP_desFP (x : BitVec 64) : permute 64 desIP (permute 64 desFP x) = x :=
  permute_permute x rfl rfl (by decide)

theorem append_halves (y : BitVec 64) : y.extractLsb' 32 32 ++ y.extractLsb' 0 32 = y :=
  (BitVec.extractLsb'_append_extractLsb'_eq_extractLsb' rfl).trans BitVec.extractLsb'_eq_self

/-- The rounds with the subkeys in reverse order undo the rounds, on halves changed over
(41_block_ciphers.md R197). -/
theorem desRounds_reverse (ks : List (BitVec 48)) (lr : BitVec 32 × BitVec 32) :
    ks.reverse.foldl desRound (ks.foldl desRound lr).swap = lr.swap :=
  foldl_reverse_undoes (h := Prod.swap) (ok := fun _ => True) (fun _ _ _ _ => trivial)
    (fun u _ k _ => by simp [desRound, Prod.swap]) trivial

theorem desCore_reverse (ks : List (BitVec 48)) (x : BitVec 64) :
    desCore ks.reverse (desCore ks x) = x := by
  have hrounds := desRounds_reverse ks
    ((permute 64 desIP x).extractLsb' 32 32, (permute 64 desIP x).extractLsb' 0 32)
  simp only [Prod.swap] at hrounds
  simp only [desCore, desIP_desFP, BitVec.extractLsb'_append_eq_left, BitVec.extractLsb'_append_eq_right, hrounds,
    append_halves, desFP_desIP]

theorem desDecBits_desEncBits (key x : BitVec 64) : desDecBits key (desEncBits key x) = x :=
  desCore_reverse _ x

theorem desEncBits_desDecBits (key x : BitVec 64) : desEncBits key (desDecBits key x) = x := by
  simpa [desEncBits, desDecBits] using desCore_reverse (desSubkeys key).reverse x

theorem tdeaDecBits_tdeaEncBits (k1 k2 k3 x : BitVec 64) : tdeaDecBits k1 k2 k3 (tdeaEncBits k1 k2 k3 x) = x := by
  simp only [tdeaDecBits, tdeaEncBits, desDecBits_desEncBits, desEncBits_desDecBits]

/-- TDEA with equal keys is DES (41_block_ciphers.md R199). -/
theorem tdea_of_equal_keys (k x : BitVec 64) :
    tdeaEncBits k k k x = desEncBits k x ∧ tdeaDecBits k k k x = desDecBits k x := by
  simp only [tdeaDecBits, tdeaEncBits, desDecBits_desEncBits, desEncBits_desDecBits, and_self]

end Sys2Proof.Machine
end

section
/-! SUPPORT. That AES-128 decryption undoes AES-128 encryption (O21). -/

namespace Sys2Proof.Machine

/-! ### SubBytes, ShiftRows and the round key (41_block_ciphers.md R201-R204) -/

/-- Xor with the same string cancels (00_scope.md R13). -/
theorem xorBytes_cancel {s t : List Byte} (h : s.length ≤ t.length) : xorBytes (xorBytes s t) t = s := by
  refine List.ext_getElem (by simp [h]) fun i _ _ => ?_
  simp [xorBytes]

theorem aesInvSBox_aesSBox (a : Byte) : aesInvSBox (aesSBox a) = a := by
  revert a; decide

/-- An arrangement that takes every byte back to its place undoes the other. -/
theorem aesArrange_aesArrange {f g : Nat → Nat → Nat} {s : List Byte} (hs : s.length = 16)
    (h : ∀ i < 16, f (i % 4) (i / 4) < 16 ∧ g (f (i % 4) (i / 4) % 4) (f (i % 4) (i / 4) / 4) = i) :
    aesArrange f (aesArrange g s) = s := by
  refine List.ext_getElem (by simp [aesArrange, hs]) fun i _ hi => ?_
  obtain ⟨hf, hback⟩ := h i (by omega)
  simp [aesArrange, hf, hback, hi]

theorem invShiftRows_shiftRows {s : List Byte} (h : s.length = 16) : invShiftRows (shiftRows s) = s :=
  aesArrange_aesArrange h (by decide)

/-! ### GF(2^8) (41_block_ciphers.md R200) -/

theorem xtime_xor (a b : Byte) : xtime (a ^^^ b) = xtime a ^^^ xtime b := by
  have hcarry (x y : Bool) : (if x ^^ y then 0x1B else 0x00 : Byte) =
      (if x then 0x1B else 0x00) ^^^ (if y then 0x1B else 0x00) := by cases x <;> cases y <;> rfl
  rw [xtime, xtime, xtime, BitVec.shiftLeft_xor_distrib, BitVec.msb_xor, hcarry]
  ac_rfl

theorem gfMulBits_xor (n : Nat) (k a b : Byte) :
    gfMulBits n k (a ^^^ b) = gfMulBits n k a ^^^ gfMulBits n k b := by
  induction n generalizing k a b with
  | zero => simp [gfMulBits]
  | succ n ih =>
    rw [gfMulBits, gfMulBits, gfMulBits, xtime_xor, ih]
    cases k.getLsbD 0 <;> simp
    ac_rfl

/-- Multiplication in GF(2^8) distributes over the sum. -/
theorem gfMul_xor (k a b : Byte) : gfMul k (a ^^^ b) = gfMul k a ^^^ gfMul k b := gfMulBits_xor 8 k a b

/-! ### MixColumns (41_block_ciphers.md R204) -/

/-- A row of coefficients times a column of bytes. -/
def mixRow (k0 k1 k2 k3 s0 s1 s2 s3 : Byte) : Byte :=
  gfMul k0 s0 ^^^ gfMul k1 s1 ^^^ gfMul k2 s2 ^^^ gfMul k3 s3

theorem mixColumn_eq (k0 k1 k2 k3 s0 s1 s2 s3 : Byte) : mixColumn k0 k1 k2 k3 s0 s1 s2 s3 =
    [ mixRow k0 k1 k2 k3 s0 s1 s2 s3, mixRow k3 k0 k1 k2 s0 s1 s2 s3
    , mixRow k2 k3 k0 k1 s0 s1 s2 s3, mixRow k1 k2 k3 k0 s0 s1 s2 s3 ] := rfl

/-- An entry of the first column of the product of two circulant matrices, `k` the second one's first row, applied to
a byte. -/
def mixEntry (k0 k1 k2 k3 j0 j1 j2 j3 a : Byte) : Byte :=
  mixRow j0 j1 j2 j3 (gfMul k0 a) (gfMul k3 a) (gfMul k2 a) (gfMul k1 a)

/-- The product of two circulant matrices is circulant. -/
theorem mixRow_mixColumn (j0 j1 j2 j3 k0 k1 k2 k3 s0 s1 s2 s3 : Byte) :
    mixRow j0 j1 j2 j3 (mixRow k0 k1 k2 k3 s0 s1 s2 s3) (mixRow k3 k0 k1 k2 s0 s1 s2 s3)
        (mixRow k2 k3 k0 k1 s0 s1 s2 s3) (mixRow k1 k2 k3 k0 s0 s1 s2 s3) =
      mixEntry k0 k1 k2 k3 j0 j1 j2 j3 s0 ^^^ mixEntry k0 k1 k2 k3 j1 j2 j3 j0 s1 ^^^
        mixEntry k0 k1 k2 k3 j2 j3 j0 j1 s2 ^^^ mixEntry k0 k1 k2 k3 j3 j0 j1 j2 s3 := by
  simp only [mixEntry, mixRow, gfMul_xor]
  ac_rfl

/-- The product of the matrices of InvMixColumns and MixColumns is the unit matrix. -/
theorem mixEntry_invMix_mix (a : Byte) :
    mixEntry 2 3 1 1 14 11 13 9 a = a ∧ mixEntry 2 3 1 1 9 14 11 13 a = 0 ∧
    mixEntry 2 3 1 1 13 9 14 11 a = 0 ∧ mixEntry 2 3 1 1 11 13 9 14 a = 0 := by
  revert a; decide

theorem invMixColumns_mixColumns {s : List Byte} (h : 4 ∣ s.length) : invMixColumns (mixColumns s) = s := by
  match s with
  | [] => rfl
  | [_] | [_, _] | [_, _, _] => simp at h
  | s0 :: s1 :: s2 :: s3 :: rest =>
    have hrest : invMixColumns (mixColumns rest) = rest :=
      invMixColumns_mixColumns ((Nat.dvd_add_left (Nat.dvd_refl 4)).1 h)
    simp only [mixColumns, invMixColumns] at hrest
    simp only [mixColumns, invMixColumns, onColumns, mixColumn_eq, List.cons_append, List.nil_append,
      mixRow_mixColumn, mixEntry_invMix_mix, hrest]
    simp

/-! ### The rounds (41_block_ciphers.md R205, R206) -/

/-- What an encryption round does before MixColumns and the round key (R205). -/
def subShift (s : List Byte) : List Byte := shiftRows (s.map aesSBox)

/-- What a decryption round does before the round key and InvMixColumns (R206). -/
def invSubShift (s : List Byte) : List Byte := (invShiftRows s).map aesInvSBox

theorem invSubShift_subShift {s : List Byte} (h : s.length = 16) : invSubShift (subShift s) = s := by
  rw [invSubShift, subShift, invShiftRows_shiftRows (by simp [h]), List.map_map]
  simp [Function.comp_def, aesInvSBox_aesSBox]

@[simp] theorem subShift_length (s : List Byte) : (subShift s).length = 16 := shiftRows_length _

/-- A round of encryption that is not the last (R205). -/
def aesEncRound (s k : List Byte) : List Byte := xorBytes (mixColumns (subShift s)) k

/-- A round of decryption that is not the last (R206). -/
def aesDecRound (s k : List Byte) : List Byte := invMixColumns (xorBytes (invSubShift s) k)

theorem mixColumns_subShift_length (s : List Byte) : (mixColumns (subShift s)).length = 16 := by
  simp [mixColumns, onColumns_mixColumn_length]

theorem aesEncRound_length (s : List Byte) {k : List Byte} (hk : k.length = 16) : (aesEncRound s k).length = 16 := by
  simp [aesEncRound, mixColumns_subShift_length, hk]

theorem aesEncRounds_concat (ks : List (List Byte)) (k s : List Byte) :
    aesEncRounds (ks ++ [k]) s = xorBytes (subShift (ks.foldl aesEncRound s)) k := by
  induction ks generalizing s with
  | nil => rfl
  | cons r ks ih =>
    rw [List.cons_append, aesEncRounds]
    · exact ih _
    · simp

theorem aesDecRounds_concat (ks : List (List Byte)) (k s : List Byte) :
    aesDecRounds (ks ++ [k]) s = xorBytes (invSubShift (ks.foldl aesDecRound s)) k := by
  induction ks generalizing s with
  | nil => rfl
  | cons r ks ih =>
    rw [List.cons_append, aesDecRounds]
    · exact ih _
    · simp

/-- A decryption round undoes an encryption round, on states past SubBytes and ShiftRows. -/
theorem aesDecRound_aesEncRound {s k : List Byte} (hk : k.length = 16) :
    aesDecRound (subShift (aesEncRound s k)) k = subShift s := by
  rw [aesDecRound, invSubShift_subShift (aesEncRound_length s hk), aesEncRound,
    xorBytes_cancel (by rw [mixColumns_subShift_length, hk]), invMixColumns_mixColumns (by simp)]

/-- Decryption with the first and last round keys and those between them in reverse order undoes encryption. -/
theorem aesDecRounds_aesEncRounds {first last x : List Byte} {mid : List (List Byte)} (hx : x.length = 16)
    (hfirst : first.length = 16) (hlast : last.length = 16) (hmid : ∀ k ∈ mid, k.length = 16) :
    aesDecRounds (mid.reverse ++ [first])
      (xorBytes (aesEncRounds (mid ++ [last]) (xorBytes x first)) last) = x := by
  have hrounds := foldl_reverse_undoes (h := subShift) (ok := fun s => s.length = 16)
    (fun s _ k hk => aesEncRound_length s (hmid k hk)) (fun _ _ k hk => aesDecRound_aesEncRound (hmid k hk))
    (s := xorBytes x first) (by simp [hx, hfirst])
  rw [aesEncRounds_concat, xorBytes_cancel (by simp [hlast]), aesDecRounds_concat, hrounds,
    invSubShift_subShift (by simp [hx, hfirst]), xorBytes_cancel (by omega)]

/-- A key expands to a first, a last and other round keys (R203). -/
theorem aesRoundKeys_eq (key : List Byte) : ∃ first mid last, aesRoundKeys key = first :: (mid ++ [last]) := by
  have hne (rcs k) : aesRoundKeysFrom rcs k ≠ [] := by cases rcs <;> simp [aesRoundKeysFrom]
  obtain ⟨mid, last, hlast⟩ := (List.eq_nil_or_concat' _).resolve_left (hne aesRC.tail (aesNextRoundKey 0x01 key))
  exact ⟨key, mid, last, congrArg (key :: ·) hlast⟩

theorem aesDec_aesEnc {key x : List Byte} (hkey : key.length = 16) (hx : x.length = 16) :
    aesDec key (aesEnc key x) = x := by
  obtain ⟨first, mid, last, hkeys⟩ := aesRoundKeys_eq key
  have hlen := aesRoundKeys_length hkey
  rw [hkeys] at hlen
  have hrev : (aesRoundKeys key).reverse = last :: (mid.reverse ++ [first]) := by simp [hkeys]
  rw [aesDec, hrev, aesEnc, hkeys]
  exact aesDecRounds_aesEncRounds hx (hlen _ (by simp)) (hlen _ (by simp)) (fun k hk => hlen k (by simp [hk]))

end Sys2Proof.Machine
end

section
/-! SUPPORT. The block functions of the families (O21, O22). -/

namespace Sys2Proof.Machine

theorem blockDec_blockEnc (fns : BlockFns) (p : Primitive) {K x : List Byte} (hK : K.length = 24)
    (hx : x.length = blockSize p) : blockDec fns p K (blockEnc fns p K x) = x := by
  cases fns <;> cases p <;> simp only [blockEnc, blockDec]
  case standard.des => exact onBlock64_cancel (desDecBits_desEncBits _) hx
  case standard.des3_2k | standard.des3_3k => exact onBlock64_cancel (tdeaDecBits_tdeaEncBits _ _ _) hx
  case standard.aes128 => exact aesDec_aesEnc (by simp [hK]) hx
  case abstract.des | abstract.des3_2k | abstract.des3_3k =>
    exact onBlock64_cancel (Equiv.symm_apply_apply _) hx
  case abstract.aes128 => exact onBlock128_cancel (Equiv.symm_apply_apply _) hx

/-- Settles O21: decryption undoes encryption, and so encryption, a map of finitely many blocks, undoes decryption. -/
theorem blockFunctionsAreInverse : Obligations.BlockFunctionsAreInverse := by
  unfold Obligations.BlockFunctionsAreInverse
  intro fns p K x hK hx
  exact ⟨blockDec_blockEnc fns p hK hx, rightInverse_of_leftInverse
    (fun _ hy => blockEnc_length fns p hK hy) (fun _ hy => blockDec_blockEnc fns p hK hy) hx⟩

/-- Settles O22: with equal halves the first two DES operations of TDEA cancel. -/
theorem degenerateKeyCollapsesToDes : Obligations.DegenerateKeyCollapsesToDes := by
  unfold Obligations.DegenerateKeyCollapsesToDes
  intro K x _ hhalves _
  have hkey : desKey2 K = desKey1 K := by rw [desKey1, desKey2, hhalves]
  simp only [blockEnc, blockDec, onBlock64, hkey, tdea_of_equal_keys, and_self]

end Sys2Proof.Machine
end

section
/-! SUPPORT. CBC chaining, block by block and there and back (O24, O25, O26). -/

namespace Sys2Proof.Machine

/-! ### The blocks of a string (40_primitive.md R156) -/

/-- The string before which a block stands. -/
theorem slice_append_of_length {b : Nat} {x s : List Byte} (hx : x.length = b) (i j : Nat) :
    slice (x ++ s) (b + i) (b + j) = slice s i j := by
  subst hx
  simp [slice, List.drop_append, List.drop_of_length_le, Nat.add_sub_add_left]

theorem slice_append_first {b : Nat} {x s : List Byte} (hx : x.length = b) : slice (x ++ s) 0 b = x := by
  subst hx
  simp [slice]

theorem slice_append_succ {b : Nat} {x s : List Byte} (hx : x.length = b) (i : Nat) :
    slice (x ++ s) ((i + 1) * b) ((i + 1 + 1) * b) = slice s (i * b) ((i + 1) * b) := by
  have hstep (n : Nat) : (n + 1) * b = b + n * b := by rw [Nat.succ_mul, Nat.add_comm]
  rw [hstep (i + 1), hstep i, slice_append_of_length hx]

theorem blocksOf_append {b m : Nat} {x s : List Byte} (hx : x.length = b) :
    blocksOf b (m + 1) (x ++ s) = x :: blocksOf b m s := by
  subst hx
  simp [blocksOf]

theorem flatten_blocksOf {b m : Nat} {s : List Byte} (h : s.length = m * b) : (blocksOf b m s).flatten = s := by
  induction m generalizing s with
  | zero => exact (List.eq_nil_of_length_eq_zero (h.trans (Nat.zero_mul b))).symm
  | succ m ih =>
    rw [blocksOf, List.flatten_cons, ih (by rw [List.length_drop, h, Nat.succ_mul]; omega), List.take_append_drop]

theorem blocks_of_length {p : Primitive} {m : Nat} {s : List Byte} (h : s.length = m * blockSize p) :
    blocks (blockSize p) s = blocksOf (blockSize p) m s := by
  rw [blocks, h, Nat.mul_div_cancel _ (blockSize_pos p)]

/-! ### The chaining value of each block (R156) -/

/-- The ciphertext block before block `i`, iv before the first. -/
def chainValue (b : Nat) (iv C : List Byte) (i : Nat) : List Byte :=
  if i = 0 then iv else slice C ((i - 1) * b) (i * b)

theorem chainValue_append_succ {b : Nat} (iv : List Byte) {c : List Byte} (C : List Byte) (hc : c.length = b)
    (i : Nat) : chainValue b iv (c ++ C) (i + 1) = chainValue b c C i := by
  cases i with
  | zero => simp [chainValue, slice_append_first hc]
  | succ i => exact slice_append_succ hc i

/-- Plaintext `P` and ciphertext `C` are `m` blocks each, `R` relates the plaintext block, the chaining value and the
ciphertext block at every position, and `v` is the chaining value after the last. -/
structure Chained (R : List Byte → List Byte → List Byte → Prop) (b m : Nat) (iv P C v : List Byte) : Prop where
  plain_length : P.length = m * b
  cipher_length : C.length = m * b
  block : ∀ i < m, R (slice P (i * b) ((i + 1) * b)) (chainValue b iv C i) (slice C (i * b) ((i + 1) * b))
  last : v = chainValue b iv C m

namespace Chained

variable {R : List Byte → List Byte → List Byte → Prop} {b m : Nat} {iv p c P C v : List Byte}

theorem nil : Chained R b 0 iv [] [] iv := ⟨by simp, by simp, by simp, rfl⟩

/-- One more block in front, its ciphertext the chaining value of the rest. -/
theorem cons (hp : p.length = b) (hc : c.length = b) (hR : R p iv c) (h : Chained R b m c P C v) :
    Chained R b (m + 1) iv (p ++ P) (c ++ C) v where
  plain_length := by rw [List.length_append, hp, h.plain_length, Nat.succ_mul, Nat.add_comm]
  cipher_length := by rw [List.length_append, hc, h.cipher_length, Nat.succ_mul, Nat.add_comm]
  block i hi := by
    cases i with
    | zero => simpa [slice_append_first hp, slice_append_first hc, chainValue] using hR
    | succ i =>
      rw [slice_append_succ hp, slice_append_succ hc, chainValue_append_succ iv C hc]
      exact h.block i (by omega)
  last := by rw [h.last, chainValue_append_succ iv C hc]

end Chained

theorem cbcEncBlocks_chained {E : List Byte → List Byte} {b : Nat} (hE : ∀ x, x.length = b → (E x).length = b)
    {ps : List (List Byte)} (hps : ∀ x ∈ ps, x.length = b) {iv : List Byte} (hiv : iv.length = b) :
    Chained (fun p u c => c = E (xorBytes p u)) b ps.length iv ps.flatten
      (cbcEncBlocks E iv ps).1 (cbcEncBlocks E iv ps).2 := by
  induction ps generalizing iv with
  | nil => exact .nil
  | cons p ps ih =>
    have hp := hps p (by simp)
    have hc := hE (xorBytes p iv) (by simp [hp, hiv])
    exact .cons hp hc rfl (ih (fun x hx => hps x (by simp [hx])) hc)

theorem cbcDecBlocks_chained {D : List Byte → List Byte} {b : Nat} (hD : ∀ x, x.length = b → (D x).length = b)
    {cs : List (List Byte)} (hcs : ∀ x ∈ cs, x.length = b) {iv : List Byte} (hiv : iv.length = b) :
    Chained (fun p u c => p = xorBytes (D c) u) b cs.length iv
      (cbcDecBlocks D iv cs).1 cs.flatten (cbcDecBlocks D iv cs).2 := by
  induction cs generalizing iv with
  | nil => exact .nil
  | cons c cs ih =>
    have hc := hcs c (by simp)
    exact .cons (by simp [hD c hc, hiv]) hc rfl (ih (fun x hx => hcs x (by simp [hx])) hc)

theorem cbcEnc_chained (fns : BlockFns) (p : Primitive) {K iv P : List Byte} {m : Nat} (hK : K.length = 24)
    (hiv : iv.length = blockSize p) (hP : P.length = m * blockSize p) :
    Chained (fun x u c => c = blockEnc fns p K (xorBytes x u)) (blockSize p) m iv P
      (cbcEnc fns p K iv P).1 (cbcEnc fns p K iv P).2 := by
  have h := cbcEncBlocks_chained (fun _ hx => blockEnc_length fns p hK hx) (blocksOf_mem_length hP.ge) hiv
  rwa [blocksOf_length, flatten_blocksOf hP, ← blocks_of_length hP] at h

theorem cbcDec_chained (fns : BlockFns) (p : Primitive) {K iv C : List Byte} {m : Nat} (hK : K.length = 24)
    (hiv : iv.length = blockSize p) (hC : C.length = m * blockSize p) :
    Chained (fun x u c => x = xorBytes (blockDec fns p K c) u) (blockSize p) m iv
      (cbcDec fns p K iv C).1 C (cbcDec fns p K iv C).2 := by
  have h := cbcDecBlocks_chained (fun _ hx => blockDec_length fns p hK hx) (blocksOf_mem_length hC.ge) hiv
  rwa [blocksOf_length, flatten_blocksOf hC, ← blocks_of_length hC] at h

/-- Settles O24: the chain of encryption, one block after another. -/
theorem cbcEncryptionByBlocks : Obligations.CbcEncryptionByBlocks := by
  unfold Obligations.CbcEncryptionByBlocks
  rintro fns p K iv P C v b m rfl hK hiv hP hCv
  have h := cbcEnc_chained fns p hK hiv hP
  rw [hCv] at h
  exact ⟨h.cipher_length, h.block, h.last⟩

/-- Settles O25: the chain of decryption, one block after another. -/
theorem cbcDecryptionByBlocks : Obligations.CbcDecryptionByBlocks := by
  unfold Obligations.CbcDecryptionByBlocks
  rintro fns p K iv C P v b m rfl hK hiv hC hPv
  have h := cbcDec_chained fns p hK hiv hC
  rw [hPv] at h
  exact ⟨h.plain_length, h.block, h.last⟩

/-! ### There and back (R158) -/

/-- Decryption of the ciphertext blocks, `E` inverted block by block, gives the plaintext blocks and the same chaining
value. -/
theorem cbcDecBlocks_cbcEncBlocks {E D : List Byte → List Byte} {b : Nat}
    (hE : ∀ x, x.length = b → (E x).length = b) (hD : ∀ x, x.length = b → D (E x) = x)
    {ps : List (List Byte)} (hps : ∀ x ∈ ps, x.length = b) {iv : List Byte} (hiv : iv.length = b) :
    cbcDecBlocks D iv (blocksOf b ps.length (cbcEncBlocks E iv ps).1) =
      (ps.flatten, (cbcEncBlocks E iv ps).2) := by
  induction ps generalizing iv with
  | nil => rfl
  | cons p ps ih =>
    have hp := hps p (by simp)
    have hx : (xorBytes p iv).length = b := by simp [hp, hiv]
    have hc := hE _ hx
    have hrest := ih (fun x hx => hps x (by simp [hx])) hc
    simp only [cbcEncBlocks, List.length_cons, blocksOf_append hc, cbcDecBlocks, hD _ hx, hrest,
      xorBytes_cancel (hp.trans hiv.symm).le, List.flatten_cons]

/-- Settles O26: on the blocks of the plaintext, and the ciphertext is as many blocks. -/
theorem cbcRoundTrip : Obligations.CbcRoundTrip := by
  unfold Obligations.CbcRoundTrip
  intro fns p K iv P C v hK hiv hP hCv
  obtain ⟨m, hm⟩ := Nat.dvd_of_mod_eq_zero hP
  rw [Nat.mul_comm] at hm
  have hC := (cbcEnc_chained fns p hK hiv hm).cipher_length
  have h := cbcDecBlocks_cbcEncBlocks (fun _ hx => blockEnc_length fns p hK hx)
    (fun _ hx => blockDec_blockEnc fns p hK hx) (blocksOf_mem_length hm.ge) hiv
  rw [blocksOf_length, flatten_blocksOf hm, ← blocks_of_length hm] at h
  rw [hCv] at hC
  rw [cbcEnc] at hCv
  rw [hCv] at h
  rw [cbcDec, blocks_of_length hC]
  exact h

end Sys2Proof.Machine
end

section
/-! SUPPORT. What the three DO_CRYPTO commands do to the range and to IV (O27). -/

namespace Sys2Proof.Machine

/-- DO_CRYPTO past its checks (40_primitive.md R160). -/
theorem doCrypto_of_whole_blocks
    {F : BlockFns → Primitive → List Byte → List Byte → List Byte → List Byte × List Byte}
    {s : State} {p : Primitive} {data : List Byte} {r : List Byte × List Byte} (hk : s.session ≠ .unkeyed)
    (hp : primitiveOf s.ctype = some p) (hr : s.rangeOk) (hm : (s.n - s.o) % blockSize p = 0)
    (hd : s.readBuf s.o s.n = .ok data) (hF : r = F s.params.blockFns p s.pkey.val (s.ivB (blockSize p)) data) :
    doCrypto F s = .next ((s.writeBuf s.o r.1).setIv r.2).succeeded := by
  subst hF
  simp [doCrypto, whenKeyed_pass hk, hp, whenRange, hr, hm, withBuf_ok hd, done_eq]

theorem fitBytes_val_of_le {n b : Nat} {v : List Byte} (hv : v.length = b) (hb : b ≤ n) :
    (fitBytes n v).val = v ++ zeros (n - b) := by
  subst hv
  rw [← List.take_append_drop v.length (fitBytes n v).val, fitBytes_take hb, fitBytes_drop rfl hb]

theorem readBuf_writeBuf {s : State} {i j : Nat} {v : List Byte} (hv : v.length = j - i) :
    (s.writeBuf i v).readBuf i j = .ok v := by
  rw [State.readBuf, ← hv]
  exact Memory.readRange_writeRange _ _ _

theorem bufSameOutside_writeBuf {s : State} {i j : Nat} {v : List Byte} (hv : v.length = j - i) (h : i ≤ j) :
    bufSameOutside s (s.writeBuf i v) i j :=
  fun a ha => Memory.read_writeRange_outside _ _ _ a (by omega)

/-- Settles O27: the command is DO_CRYPTO with one of the two chaining functions, each of which keeps the length of
whole blocks and answers a chaining value of one block. -/
theorem doCryptoTransformsTheRange : Obligations.DoCryptoTransformsTheRange := by
  unfold Obligations.DoCryptoTransformsTheRange
  intro s p data hk hp hlen hofs hm hd i r hir
  have hrange := State.readBuf_length hd
  have hwhole : data.length / blockSize p * blockSize p = data.length :=
    Nat.div_mul_cancel (Nat.dvd_of_mod_eq_zero (hrange ▸ hm))
  have henc := cbcEnc_length s.params.blockFns p (s := data) s.pkey.property (ivB_length s p)
  have hdec := cbcDec_length s.params.blockFns p (s := data) s.pkey.property (ivB_length s p)
  obtain ⟨F, hexec, hF, hout, hchain⟩ : ∃ F, exec i s = doCrypto F s ∧
      r = F s.params.blockFns p s.pkey.val (s.ivB (blockSize p)) data ∧
      r.1.length = data.length / blockSize p * blockSize p ∧ r.2.length = blockSize p := by
    rcases hir with ⟨rfl | rfl, rfl⟩ | ⟨rfl, rfl⟩
    · exact ⟨cbcEnc, rfl, rfl, henc⟩
    · exact ⟨cbcMac, rfl, rfl, henc⟩
    · exact ⟨cbcDec, rfl, rfl, hdec⟩
  rw [hwhole, hrange] at hout
  exact ⟨_, hexec.trans (doCrypto_of_whole_blocks hk hp ⟨hlen, hofs⟩ hm hd hF), rfl, readBuf_writeBuf hout,
    bufSameOutside_writeBuf hout hofs, fitBytes_val_of_le hchain (blockSize_le p)⟩

end Sys2Proof.Machine
end

section
/-! SUPPORT. What DES reads of its key (O23). -/

namespace Sys2Proof.Machine

/-- A permutation's result holds no bit of its argument but those its table names (41_block_ciphers.md R190). -/
theorem permute_congr {n m : Nat} {T : List Nat} {x y : BitVec n}
    (h : ∀ k ∈ T, x.getMsbD (k - 1) = y.getMsbD (k - 1)) : permute m T x = permute m T y := by
  have hfold := List.foldl_ext (fun acc k => 2 * acc + (x.getMsbD (k - 1)).toNat)
    (fun acc k => 2 * acc + (y.getMsbD (k - 1)).toNat) 0 (fun acc k hk => by rw [h k hk])
  rw [permute, permute, hfold]

/-- No parity bit, the last of each key byte, stands in PC1 (41_block_ciphers.md R191). -/
theorem desPC1_skips_parity : ∀ k ∈ desPC1, k - 1 < 64 ∧ (k - 1) % 8 ≠ 7 := by decide

theorem desSubkeys_congr {key key' : BitVec 64}
    (h : ∀ i < 64, i % 8 ≠ 7 → key.getMsbD i = key'.getMsbD i) : desSubkeys key = desSubkeys key' := by
  have hcd : permute 56 desPC1 key = permute 56 desPC1 key' := permute_congr fun k hk =>
    have ⟨hlt, hparity⟩ := desPC1_skips_parity k hk
    h (k - 1) hlt hparity
  rw [desSubkeys, desSubkeys, hcd]

/-- Settles O23: encryption and decryption read the key through its subkeys alone, and those do not depend on the
parity bits (41_block_ciphers.md R198). -/
theorem desIgnoresParityBits : Obligations.DesIgnoresParityBits := by
  unfold Obligations.DesIgnoresParityBits
  intro key key' x h
  have hsubkeys := desSubkeys_congr h
  constructor
  · rw [desEncBits, desEncBits, hsubkeys]
  · rw [desDecBits, desDecBits, hsubkeys]

end Sys2Proof.Machine
end

section
/-! SUPPORT. Doubling as a shift of the block's bit string (O28). -/

namespace Sys2Proof.Machine

/-! ### Strings as the blocks of bit strings (00_scope.md R13, R14) -/

theorem xorBytes_blockOfBits {b : Nat} (x y : BitVec (8 * b)) :
    xorBytes (blockOfBits b x) (blockOfBits b y) = blockOfBits b (x ^^^ y) := by
  refine List.ext_getElem (by simp) fun i _ _ => ?_
  simp [xorBytes, blockOfBits, BitVec.extractLsb'_xor]

@[simp] theorem beNat_zeros (n : Nat) : beNat (zeros n) = 0 := by
  induction n with
  | zero => rfl
  | succ n ih =>
    rw [zeros, List.replicate_succ', ← zeros, beNat_concat, ih]
    rfl

/-- A byte behind zeros is the block of the byte's number. -/
theorem zeros_concat_eq_blockOfBits {b : Nat} (hb : 0 < b) (d : Byte) :
    zeros (b - 1) ++ [d] = blockOfBits b (BitVec.ofNat (8 * b) d.toNat) := by
  have hlen : (zeros (b - 1) ++ [d]).length = b := by
    rw [List.length_append, zeros_length, List.length_singleton]
    omega
  have hbits : bitsOfBlock (8 * b) (zeros (b - 1) ++ [d]) = BitVec.ofNat (8 * b) d.toNat := by
    simp [bitsOfBlock]
  rw [← hbits, blockOfBits_bitsOfBlock hlen]

/-! ### The shift by one bit (42_cmac.md R241) -/

@[simp] theorem shiftLeft1_length (X : List Byte) : (shiftLeft1 X).length = X.length := by
  induction X using shiftLeft1.induct with
  | case1 => rfl
  | case2 x => rfl
  | case3 x y r ih => simp [shiftLeft1, ih]

/-- Every byte takes the top bit of the byte after it, the last one a zero. -/
theorem shiftLeft1_getElem {X : List Byte} {i : Nat} (h : i < X.length) :
    (shiftLeft1 X)[i]'(by simpa using h) = X[i] <<< 1 ||| X.getD (i + 1) 0 >>> 7 := by
  induction X using shiftLeft1.induct generalizing i with
  | case1 => simp at h
  | case2 x =>
    obtain rfl : i = 0 := by simpa using h
    simp [shiftLeft1]
  | case3 x y r ih =>
    cases i with
    | zero => simp [shiftLeft1]
    | succ i => simpa [shiftLeft1] using ih (by simpa using h)

theorem blockOfBits_getElem {b i : Nat} (x : BitVec (8 * b)) (h : i < b) :
    (blockOfBits b x)[i]'(by simpa using h) = x.extractLsb' (8 * (b - 1 - i)) 8 := by
  simp [blockOfBits]

/-- A byte of a bit string shifted left: its own bits one up, and in the lowest place the bit before them. -/
theorem extractLsb'_shiftLeft_one {n p : Nat} (x : BitVec n) (h : p + 16 ≤ n) :
    (x <<< 1).extractLsb' (p + 8) 8 = x.extractLsb' (p + 8) 8 <<< 1 ||| x.extractLsb' p 8 >>> 7 := by
  refine BitVec.eq_of_getLsbD_eq fun j hj => ?_
  cases j with
  | zero =>
    have hlt : p + 8 < n := by omega
    simp [hlt, -BitVec.getLsbD_eq_getElem]
  | succ j =>
    have hlt : p + 8 + j + 1 < n := by omega
    simp [hj, hlt, Nat.lt_of_succ_lt hj, ← Nat.add_assoc, -BitVec.getLsbD_eq_getElem]

theorem extractLsb'_zero_shiftLeft_one {n : Nat} (x : BitVec n) (h : 8 ≤ n) :
    (x <<< 1).extractLsb' 0 8 = x.extractLsb' 0 8 <<< 1 := by
  refine BitVec.eq_of_getLsbD_eq fun j hj => ?_
  cases j with
  | zero => simp
  | succ j =>
    have hlt : j + 1 < n := by omega
    simp [hj, hlt, Nat.lt_of_succ_lt hj, -BitVec.getLsbD_eq_getElem]

theorem shiftLeft1_blockOfBits {b : Nat} (x : BitVec (8 * b)) :
    shiftLeft1 (blockOfBits b x) = blockOfBits b (x <<< 1) := by
  refine List.ext_getElem (by simp) fun i _ hi => ?_
  rw [blockOfBits_length] at hi
  rw [shiftLeft1_getElem (by simpa using hi), blockOfBits_getElem x hi, blockOfBits_getElem _ hi]
  rcases Nat.lt_or_ge (i + 1) b with hnext | hlast
  · rw [List.getD_eq_getElem _ _ (by simpa using hnext), blockOfBits_getElem x hnext,
      show 8 * (b - 1 - i) = 8 * (b - 1 - (i + 1)) + 8 by omega]
    exact (extractLsb'_shiftLeft_one x (by omega)).symm
  · rw [List.getD_eq_default _ _ (by simpa using hlast), show 8 * (b - 1 - i) = 0 by omega,
      extractLsb'_zero_shiftLeft_one x (by omega)]
    exact BitVec.or_zero

/-- The first bit of a block is the top bit of its bit string. -/
theorem msb_blockOfBits {b : Nat} (hb : 0 < b) (x : BitVec (8 * b)) :
    ((blockOfBits b x).getD 0 0).msb = x.msb := by
  have hpos : 8 * (b - 1) + 7 = 8 * b - 1 := by omega
  rw [List.getD_eq_getElem _ _ (by simpa using hb), blockOfBits_getElem x hb]
  simp [BitVec.msb_eq_getLsbD_last, hpos]

/-- Doubling on bit strings (42_cmac.md R240, R241). -/
theorem dbl_blockOfBits {b : Nat} (hb : 0 < b) (x : BitVec (8 * b)) :
    dbl b (blockOfBits b x) =
      blockOfBits b ((x <<< 1) ^^^ (if x.msb then BitVec.ofNat (8 * b) (cmacRb b).toNat else 0)) := by
  rw [dbl, msb_blockOfBits hb, shiftLeft1_blockOfBits, zeros_concat_eq_blockOfBits hb]
  split
  · exact xorBytes_blockOfBits _ _
  · exact congrArg _ BitVec.xor_zero.symm

theorem cmacRb_toNat (b : Nat) : (cmacRb b).toNat = if b = 16 then 0x87 else 0x1B := by
  unfold cmacRb
  split <;> rfl

/-- Doubling keeps a block's length (42_cmac.md R241). -/
theorem dbl_length {b : Nat} (hb : 0 < b) {X : List Byte} (hX : X.length = b) : (dbl b X).length = b := by
  rw [← blockOfBits_bitsOfBlock hX, dbl_blockOfBits hb, blockOfBits_length]

/-- Settles O28: a string of `b` bytes is the block of its bit string, on which doubling is the shift. -/
theorem doublingIsShiftWithRb : Obligations.DoublingIsShiftWithRb := by
  unfold Obligations.DoublingIsShiftWithRb
  intro b X hb hX
  have hpos : 0 < b := by omega
  refine ⟨dbl_length hpos hX, ?_⟩
  have hdbl := dbl_blockOfBits hpos (bitsOfBlock (8 * b) X)
  rw [blockOfBits_bitsOfBlock hX, cmacRb_toNat] at hdbl
  rw [hdbl, bitsOfBlock_blockOfBits]

end Sys2Proof.Machine
end

section
/-! SUPPORT. The CMAC engine: derivation of the subkeys (O29, O30), the format (O31) and COMPUTE_CMAC (O32). -/

namespace Sys2Proof.Machine

/-! ### Subkeys (42_cmac.md R242, R243, R248) -/

theorem xorBytes_zeros (n : Nat) : xorBytes (zeros n) (zeros n) = zeros n := by
  simp [xorBytes, zeros]

/-- The CBC-MAC of one zero block from a zero IV encrypts the zero block (42_cmac.md R242). -/
theorem cmacL_eq (fns : BlockFns) (p : Primitive) (K : List Byte) :
    cmacL fns p K = blockEnc fns p K (zeros (blockSize p)) := by
  have hblocks : blocks (blockSize p) (zeros (blockSize p)) = [zeros (blockSize p)] := by
    simp [blocks, Nat.div_self (blockSize_pos p), blocksOf, List.take_of_length_le]
  rw [cmacL, cbcMac, cbcEnc, hblocks, cbcEncBlocks, cbcEncBlocks, xorBytes_zeros]

theorem cmacL_length (fns : BlockFns) (p : Primitive) {K : List Byte} (hK : K.length = 24) :
    (cmacL fns p K).length = blockSize p := by
  rw [cmacL_eq, blockEnc_length fns p hK (zeros_length _)]

theorem cmacK1_length (fns : BlockFns) (p : Primitive) {K : List Byte} (hK : K.length = 24) :
    (cmacK1 fns p K).length = blockSize p :=
  dbl_length (blockSize_pos p) (cmacL_length fns p hK)

theorem cmacK2_length (fns : BlockFns) (p : Primitive) {K : List Byte} (hK : K.length = 24) :
    (cmacK2 fns p K).length = blockSize p :=
  dbl_length (blockSize_pos p) (cmacK1_length fns p hK)

/-- SK1 after DeriveSubkeys: dbl(E(zeros)), then zeros (42_cmac.md R242). -/
theorem deriveSubkeys_sk1_val (p : Primitive) (s : State) :
    (deriveSubkeys p s).sk1.val =
      dbl (blockSize p) (blockEnc s.params.blockFns p s.pkey.val (zeros (blockSize p))) ++
        zeros (16 - blockSize p) := by
  rw [← cmacL_eq]
  exact fitBytes_val_of_le (cmacK1_length _ p s.pkey.property) (blockSize_le p)

/-- SK2 after DeriveSubkeys: the double of the subkey in SK1, then zeros (42_cmac.md R242). -/
theorem deriveSubkeys_sk2_val (p : Primitive) (s : State) :
    (deriveSubkeys p s).sk2.val =
      dbl (blockSize p) ((deriveSubkeys p s).sk1.val.take (blockSize p)) ++ zeros (16 - blockSize p) := by
  have hK1 := cmacK1_length s.params.blockFns p s.pkey.property
  have htake : (deriveSubkeys p s).sk1.val.take (blockSize p) = cmacK1 s.params.blockFns p s.pkey.val := by
    have h := fitBytes_take (n := 16) (hK1.trans_le (blockSize_le p))
    rwa [hK1] at h
  rw [htake]
  exact fitBytes_val_of_le (cmacK2_length _ p s.pkey.property) (blockSize_le p)

/-- CMAC_SUBKEYS past its checks (42_cmac.md R243). -/
theorem execCmacSubkeys_of_default {s : State} {p : Primitive} (hk : s.session ≠ .unkeyed)
    (hp : factory s.ctype = .default p) : execCmacSubkeys s = .next (deriveSubkeys p s).succeeded := by
  simp only [execCmacSubkeys, whenKeyed_pass hk, hp, done_eq]

/-- Settles O29: past the checks the command is DeriveSubkeys. -/
theorem cmacSubkeysDerivesBoth : Obligations.CmacSubkeysDerivesBoth := by
  unfold Obligations.CmacSubkeysDerivesBoth
  rintro s p b hk hp rfl
  exact ⟨_, execCmacSubkeys_of_default hk hp, rfl, deriveSubkeys_sk1_val p s, deriveSubkeys_sk2_val p s⟩

/-- SK1 and SK2 of `t` are the subkeys of the key bound in `s`. -/
def HoldsSubkeysOf (s : State) (p : Primitive) (t : State) : Prop :=
  t.sk1 = fitBytes 16 (cmacK1 s.params.blockFns p s.pkey.val) ∧
    t.sk2 = fitBytes 16 (cmacK2 s.params.blockFns p s.pkey.val)

theorem sessionStart_holdsSubkeys {s : State} {p : Primitive} (hp : factory s.ctype = .default p) :
    HoldsSubkeysOf s p (sessionStart s) := by
  rcases sessionStart_cases s with ⟨q, hq, hstart⟩ | ⟨hno, _⟩
  · obtain rfl : p = q := by simpa [hp] using hq
    rw [hstart]
    exact ⟨rfl, rfl⟩
  · exact absurd hp (hno p)

/-- A deriving command that succeeds leaves the subkeys of the bound key. -/
theorem exec_holdsSubkeys {i : Instr} {s t : State} {p : Primitive}
    (hi : i ∈ [Instr.cmacSubkeys, .initSession, .reinitSession]) (hp : factory s.ctype = .default p)
    (h : exec i s = .next t) (hok : t.ok = true) : HoldsSubkeysOf s p t := by
  simp only [List.mem_cons, List.not_mem_nil, or_false] at hi
  obtain rfl | rfl | rfl := hi
  · rcases execCmacSubkeys_next h with ⟨e, _, rfl⟩ | ⟨q, _, hq, rfl⟩
    · cases hok
    · obtain rfl : p = q := by simpa [hp] using hq
      exact ⟨rfl, rfl⟩
  · rcases execInitSession_next h with ⟨e, _, rfl⟩ | ⟨_, rfl⟩
    · cases hok
    · exact sessionStart_holdsSubkeys hp
  · rcases execReinitSession_next h with ⟨e, _, rfl⟩ | ⟨_, rfl⟩
    · cases hok
    · exact sessionStart_holdsSubkeys hp

/-- Settles O30: either command leaves the subkeys of the key bound before it, and those are functions of the family,
the key and the block functions. -/
theorem subkeysDependOnKeyAlone : Obligations.SubkeysDependOnKeyAlone := by
  unfold Obligations.SubkeysDependOnKeyAlone
  intro i j s s' t t' p hi hj hctype hpkey hfns hp h h' hok hok'
  obtain ⟨hsk1, hsk2⟩ := exec_holdsSubkeys hi hp h hok
  obtain ⟨hsk1', hsk2'⟩ := exec_holdsSubkeys hj (hctype ▸ hp) h' hok'
  rw [hsk1, hsk2, hsk1', hsk2', hpkey, hfns]
  exact ⟨rfl, rfl⟩

/-! ### The CMAC format (42_cmac.md R244, 46_integrity_helpers.md R388) -/

/-- `P` with its last `b` bytes xored with `K` (42_cmac.md R244). -/
def maskLast (b : Nat) (K P : List Byte) : List Byte :=
  P.take (P.length - b) ++ xorBytes (P.drop (P.length - b)) K

section MaskLast

variable {b : Nat} {K P : List Byte}

theorem maskLast_take : (maskLast b K P).take (P.length - b) = P.take (P.length - b) :=
  List.take_left' (by simp)

theorem maskLast_drop : (maskLast b K P).drop (P.length - b) = xorBytes (P.drop (P.length - b)) K :=
  List.drop_left' (by simp)

theorem maskLast_length (hK : K.length = b) (hP : b ≤ P.length) : (maskLast b K P).length = P.length := by
  simp [maskLast, hK]
  omega

end MaskLast

theorem cmacFormat_of_whole {b : Nat} {K1 K2 M : List Byte} (hne : M.length ≠ 0) (hm : M.length % b = 0) :
    cmacFormat b K1 K2 M = maskLast b K1 M :=
  if_pos ⟨Nat.pos_of_ne_zero hne, hm⟩

theorem cmacFormat_of_partial {b : Nat} {K1 K2 M : List Byte} (hM : M.length = 0 ∨ M.length % b ≠ 0) :
    cmacFormat b K1 K2 M =
      maskLast b K2 (M ++ 0x80 :: zeros ((b - (M.length + 1) % b) % b)) := by
  rw [cmacFormat, if_neg (by omega), List.append_assoc]
  rfl

/-- A whole number of blocks, not none, is its own padded length (46_integrity_helpers.md R388). -/
theorem cmacPadlen_of_whole {n b : Nat} (hb : 0 < b) (hn : n ≠ 0) (hm : n % b = 0) : cmacPadlen n b = n := by
  obtain ⟨m, rfl⟩ := Nat.dvd_of_mod_eq_zero hm
  rw [cmacPadlen, if_neg hn, padlen, Nat.add_sub_assoc hb, Nat.mul_add_div hb,
    Nat.div_eq_of_lt (Nat.sub_lt hb Nat.one_pos), Nat.add_zero, Nat.mul_comm]

/-- The padding of R244, 0x80 and the fewest zeros that complete a block, ends at cmac_padlen. -/
theorem cmacPadlen_of_partial {n b : Nat} (hb : b = 8 ∨ b = 16) (h : n = 0 ∨ n % b ≠ 0) :
    cmacPadlen n b = n + 1 + (b - (n + 1) % b) % b := by
  unfold cmacPadlen padlen
  obtain rfl | rfl := hb <;> split <;> omega

theorem le_cmacPadlen {n b : Nat} (hb : b = 8 ∨ b = 16) : b ≤ cmacPadlen n b := by
  unfold cmacPadlen padlen
  obtain rfl | rfl := hb <;> split <;> omega

/-- Settles O31: in either case the format is the padded message with its last block masked. -/
theorem cmacFormatPadsAndMasks : Obligations.CmacFormatPadsAndMasks := by
  unfold Obligations.CmacFormatPadsAndMasks
  intro b K1 K2 M P last hb hK1 hK2 hP
  obtain ⟨hformat, hlen, hlast⟩ : cmacFormat b K1 K2 M = maskLast b last P ∧
      P.length = cmacPadlen M.length b ∧ last.length = b := by
    rcases hP with ⟨hne, hm, rfl, rfl⟩ | ⟨hM, rfl, rfl⟩
    · exact ⟨cmacFormat_of_whole hne hm, (cmacPadlen_of_whole (by omega) hne hm).symm, hK1⟩
    · have hpad := cmacPadlen_of_partial hb hM
      have hzeros : cmacPadlen M.length b - M.length - 1 = (b - (M.length + 1) % b) % b := by omega
      refine ⟨hzeros ▸ cmacFormat_of_partial hM, ?_, hK2⟩
      simp
      omega
  rw [hformat, maskLast_length hlast (hlen ▸ le_cmacPadlen hb)]
  exact ⟨hlen, hlen, maskLast_take, maskLast_drop⟩

/-! ### COMPUTE_CMAC (42_cmac.md R245, R246) -/

theorem le_blockSize (p : Primitive) : 8 ≤ blockSize p := by cases p <;> decide

/-- COMPUTE_CMAC past its checks (42_cmac.md R246). -/
theorem execComputeCmac_of_range {s : State} {p : Primitive} {data : List Byte} (hk : s.session ≠ .unkeyed)
    (hp : factory s.ctype = .default p) (hv : s.skv = true) (hr : s.rangeOk)
    (hd : s.readBuf s.o s.n = .ok data) :
    execComputeCmac s = .next (State.succeeded { s.setIv (s.cmac p (s.ivB (blockSize p)) data).2 with
      mac := fitBytes 8 (s.cmac p (s.ivB (blockSize p)) data).1 }) := by
  simp [execComputeCmac, whenKeyed_pass hk, hp, hv, whenRange, hr, withBuf_ok hd, done_eq]

/-- Settles O32: past the checks the command stores the final chaining block, which is one block, in IV and its first
eight bytes in MAC. -/
theorem computeCmacWritesMacAndIv : Obligations.ComputeCmacWritesMacAndIv := by
  unfold Obligations.ComputeCmacWritesMacAndIv
  rintro s p data v b hk hp rfl hv hlen hofs hd rfl
  have hchain := (cmac_length s data (ivB_length s p)).2
  have hmac : (s.cmac p (s.ivB (blockSize p)) data).1.length = 8 :=
    List.length_take_of_le (hchain.symm ▸ le_blockSize p)
  exact ⟨_, execComputeCmac_of_range hk hp hv ⟨hlen, hofs⟩ hd, rfl,
    fitBytes_val_of_le hchain (blockSize_le p), fitBytes_val_of_length hmac⟩

end Sys2Proof.Machine
end

section
/-! SUPPORT. The transmit transforms of the legacy wrapper (O34, O35). -/

namespace Sys2Proof.Machine

/-! ### Checks that pass -/

section Pass

variable {s : State} {k : Result}

theorem whenRange_pass (h : s.rangeOk) : whenRange s k = k := if_pos h

theorem whenLen_pass (h : s.lenOk) : whenLen s k = k := if_pos h

theorem whenFits_pass {n' : Nat} (h : s.fits n') : whenFits s n' k = k := if_pos h

end Pass

/-- A length that fits the buffer fits LEN (00_scope.md R10, 10_state.md R40). -/
theorem len_toNat_of_fits {q : Params} {n : Nat} (h : n ≤ q.bufCap) : (BitVec.ofNat 16 n).toNat = n :=
  Nat.mod_eq_of_lt (by have := q.cap_le; omega)

/-! ### The legacy wrapper's padding (43_legacy_wrapper.md R271, R273) -/

theorem padlen_eight (n : Nat) : padlen n 8 = n + (8 - n % 8) % 8 := by
  unfold padlen
  omega

theorem legacyMac_eq (fns : BlockFns) (p : Primitive) (K : List Byte) {x : List Byte} {n : Nat} (hx : x.length = n) :
    legacyMac fns p K x = (cbcEnc fns p K (zeros 8) (x ++ zeros ((8 - n % 8) % 8))).2 := by
  rw [legacyMac, hx, padlen_eight, Nat.add_sub_cancel_left]
  rfl

theorem legacyTail_eq (q : Params) (x : List Byte) :
    legacyTail q x = x ++ le16 (crc16Of q x) ++ zeros ((8 - (x.length + 2) % 8) % 8) := by
  simp only [legacyTail, padlen_eight, Nat.add_sub_cancel_left, List.length_append, le16_length]

theorem legacyTail_whole (q : Params) (x : List Byte) : (legacyTail q x).length % 8 = 0 := by
  rw [legacyTail_length]
  exact Nat.mul_mod_left _ _

/-- The encrypted tail is as long as the tail, and leaves one block in IV. -/
theorem cbcEnc_legacyTail_length (fns : BlockFns) {p : Primitive} (K : ByteArr 24) (q : Params) (x : List Byte)
    (hb : blockSize p = 8) :
    (cbcEnc fns p K.val (zeros 8) (legacyTail q x)).1.length = (legacyTail q x).length ∧
      (cbcEnc fns p K.val (zeros 8) (legacyTail q x)).2.length = 8 := by
  have h := cbcEnc_length fns p (iv := zeros 8) (s := legacyTail q x) K.property (by simp [hb])
  rwa [hb, Nat.div_mul_cancel (Nat.dvd_of_mod_eq_zero (legacyTail_whole q x))] at h

/-! ### The commands past their checks (R272, R273) -/

theorem execPrepareTxMac_of_legacy {s : State} {p : Primitive} {x v : List Byte} (hs : s.session = .session)
    (hp : factory s.ctype = .legacy p) (ho : s.o ≤ s.n) (hf : s.fits (s.n + 4)) (hx : s.readBuf s.o s.n = .ok x)
    (hv : v = legacyMac s.params.blockFns p s.pkey.val x) :
    execPrepareTxMac s = .next (((s.writeBuf s.n (v.take 4)).setLen (s.n + 4)).setIv v).succeeded := by
  have hr : s.rangeOk := ⟨by omega, ho⟩
  rw [execPrepareTxMac, prepareTx_of_legacy hs hp, whenRange_pass hr, legacyTxMac, whenFits_pass hf, withBuf_ok hx,
    ← hv, done_eq]

theorem execPrepareTxCipher_of_legacy {s : State} {p : Primitive} {x : List Byte} {r : List Byte × List Byte}
    {total : Nat} (hs : s.session = .session) (hp : factory s.ctype = .legacy p) (hr : s.rangeOk)
    (ht : total = s.o + padlen (s.n - s.o + 2) 8) (hf : s.fits total) (hx : s.readBuf s.o s.n = .ok x)
    (henc : r = cbcEnc s.params.blockFns p s.pkey.val (zeros 8) (legacyTail s.params x)) :
    execPrepareTxCipher s = .next (((s.writeBuf s.o r.1).setLen total).setIv r.2).succeeded := by
  subst ht henc
  rw [execPrepareTxCipher, prepareTx_of_legacy hs hp, whenRange_pass hr, legacyTxCipher, whenFits_pass hf,
    withBuf_ok hx, done_eq]

/-- Settles O34: the appended bytes are the first four of the MAC, which is one block. -/
theorem legacyPrepareTxMacAppendsFourBytes : Obligations.LegacyPrepareTxMacAppendsFourBytes := by
  unfold Obligations.LegacyPrepareTxMacAppendsFourBytes
  intro s p x v hs hp ho hfits hx hv
  rw [← legacyMac_eq _ _ _ rfl] at hv
  have hb := (primitiveOf_of_legacy hp).2
  have hlen : v.length = 8 := hv ▸ (legacyMac_length s.params.blockFns s.pkey x hb).trans hb
  have hmac : (v.take 4).length = s.n + 4 - s.n := by simp [hlen]
  exact ⟨_, execPrepareTxMac_of_legacy hs hp ho hfits hx hv, rfl, len_toNat_of_fits hfits, readBuf_writeBuf hmac,
    bufSameOutside_writeBuf hmac (by omega), fitBytes_val_of_le hlen (by decide)⟩

/-- Settles O35: the tail is whole blocks, so the ciphertext takes its place byte for byte. -/
theorem legacyPrepareTxCipherEncryptsTail : Obligations.LegacyPrepareTxCipherEncryptsTail := by
  unfold Obligations.LegacyPrepareTxCipherEncryptsTail
  intro s p x t' r hs hp ho hcap hx ht' hfits hr
  rw [← legacyTail_eq] at ht'
  subst ht'
  obtain ⟨hout, hchain⟩ := cbcEnc_legacyTail_length s.params.blockFns s.pkey s.params x (primitiveOf_of_legacy hp).2
  rw [← hr] at hout hchain
  have htotal : s.o + (legacyTail s.params x).length = s.o + padlen (s.n - s.o + 2) 8 := by
    rw [legacyTail_length, State.readBuf_length hx]
  have hspan : r.1.length = s.o + (legacyTail s.params x).length - s.o := by omega
  exact ⟨_, execPrepareTxCipher_of_legacy hs hp ⟨hcap, ho⟩ htotal hfits hx hr, rfl, len_toNat_of_fits hfits,
    readBuf_writeBuf hspan, bufSameOutside_writeBuf hspan (by omega), fitBytes_val_of_le hchain (by decide)⟩

end Sys2Proof.Machine
end

section
/-! SUPPORT. The receive transforms of both wrappers (O39, O40, O41). -/

namespace Sys2Proof.Machine

/-! ### CONFIRM_RX.MAC (43_legacy_wrapper.md R274, 44_default_wrapper.md R310) -/

/-- What both wrappers do with a buffer `x` whose recomputed MAC is `v`, `k` bytes of it sent: IV takes `v`, and LEN
loses the trailer where it matches. -/
def confirmMac (k : Nat) (v x : List Byte) (s : State) : Result :=
  if v.take k = x.drop (s.n - k) then done ((s.setIv v).setLen (s.n - k)) else raise .integrity (s.setIv v)

theorem confirmMac_of_match {k : Nat} {v x : List Byte} {s : State} (h : v.take k = x.drop (s.n - k)) :
    confirmMac k v x s = .next ((s.setIv v).setLen (s.n - k)).succeeded := if_pos h

theorem confirmMac_of_mismatch {k : Nat} {v x : List Byte} {s : State} (h : v.take k ≠ x.drop (s.n - k)) :
    confirmMac k v x s = .next ((s.setIv v).failed .integrity) := if_neg h

section RxMac

variable {s : State} {p : Primitive} {x v : List Byte}

theorem execConfirmRxMac_of_legacy (hs : s.session = .session) (hp : factory s.ctype = .legacy p) (hl : s.lenOk)
    (hn : 4 ≤ s.n) (hx : s.readBuf 0 s.n = .ok x)
    (hv : v = legacyMac s.params.blockFns p s.pkey.val (x.take (s.n - 4))) :
    execConfirmRxMac s = confirmMac 4 v x s := by
  rw [execConfirmRxMac, confirmRx_of_legacy hs hp, whenLen_pass hl, legacyRxMac, if_neg (by omega), withBuf_ok hx,
    ← hv]
  exact ite_not ..

theorem execConfirmRxMac_of_default (hs : s.session = .session) (hp : factory s.ctype = .default p) (hl : s.lenOk)
    (hn : 8 ≤ s.n) (hx : s.readBuf 0 s.n = .ok x)
    (hv : v = (s.cmac p (s.ivB (blockSize p)) (x.take (s.n - 8))).2) :
    execConfirmRxMac s = confirmMac 8 v x s := by
  subst hv
  rw [execConfirmRxMac, confirmRx_of_default hs hp, whenLen_pass hl, defaultRxMac, if_neg (by omega), withBuf_ok hx]
  exact ite_not ..

end RxMac

/-- Settles O39: either wrapper recomputes its MAC over the bytes before the trailer, and the rest is common. -/
theorem confirmRxMacComparesTrailer : Obligations.ConfirmRxMacComparesTrailer := by
  unfold Obligations.ConfirmRxMacComparesTrailer
  rintro s p x v b k hs hl hx rfl hk hwrapper
  obtain ⟨hexec, hlen⟩ : execConfirmRxMac s = confirmMac k v x s ∧ v.length = blockSize p := by
    rcases hwrapper with ⟨hp, rfl, hv⟩ | ⟨hp, rfl, hv⟩
    · have hpayload : (x.take (s.n - 4)).length = s.n - 4 := by
        rw [List.length_take, State.readBuf_length hx]
        omega
      rw [← legacyMac_eq _ _ _ hpayload] at hv
      exact ⟨execConfirmRxMac_of_legacy hs hp hl hk hx hv,
        hv ▸ legacyMac_length _ s.pkey _ (primitiveOf_of_legacy hp).2⟩
    · exact ⟨execConfirmRxMac_of_default hs hp hl hk hx hv, hv ▸ (cmac_length s _ (ivB_length s p)).2⟩
  have hiv := fitBytes_val_of_le hlen (blockSize_le p)
  by_cases hmatch : v.take k = x.drop (s.n - k)
  · have hlenfits : s.n - k ≤ s.params.bufCap := by omega
    exact ⟨_, hexec.trans (confirmMac_of_match hmatch), rfl, hiv,
      fun _ => ⟨rfl, rfl, len_toNat_of_fits hlenfits⟩, fun h => absurd hmatch h⟩
  · exact ⟨_, hexec.trans (confirmMac_of_mismatch hmatch), rfl, hiv, fun h => absurd h hmatch,
      fun _ => ⟨rfl, rfl, rfl⟩⟩

/-! ### The search for the payload (R275, R311) -/

/-- At length `L` the rest of `P` is the trailer of the bytes before it, and then zeros. -/
def TrailerAt (P : List Byte) (trailer : List Byte → List Byte) (L : Nat) : Prop :=
  P.drop L = trailer (P.take L) ++ zeros (P.length - L - (trailer (P.take L)).length)

theorem trailerAt_iff {P : List Byte} {trailer : List Byte → List Byte} {w L : Nat}
    (hw : (trailer (P.take L)).length = w) :
    TrailerAt P trailer L ↔ slice P L (L + w) = trailer (P.take L) ∧ P.drop (L + w) = zeros (P.length - L - w) := by
  rw [TrailerAt, hw, slice, Nat.add_sub_cancel_left, ← List.drop_drop]
  constructor
  · intro h
    rw [h]
    exact ⟨List.take_left' hw, List.drop_left' hw⟩
  · rintro ⟨htrailer, hzeros⟩
    rw [← htrailer, ← hzeros, List.take_append_drop]

/-- The test of the search is that the trailer stands there. -/
theorem findPayload_test {P : List Byte} {trailer : List Byte → List Byte} {L w : Nat}
    (hw : w = (trailer (P.take L)).length) :
    ((P.drop L).take w == trailer (P.take L) && (P.drop L).drop w == zeros (P.length - L - w)) = true ↔
      TrailerAt P trailer L := by
  rw [trailerAt_iff hw.symm, slice, Nat.add_sub_cancel_left, ← List.drop_drop, Bool.and_eq_true, beq_iff_eq,
    beq_iff_eq]

theorem findPayload_eq_some {P : List Byte} {trailer : List Byte → List Byte} {lo hi L : Nat} :
    findPayload P trailer lo hi = some L ↔
      TrailerAt P trailer L ∧ lo ≤ L ∧ L ≤ hi ∧ ∀ M, lo ≤ M → M < L → ¬ TrailerAt P trailer M := by
  simp only [findPayload, List.find?_range'_eq_some, findPayload_test rfl, Bool.not_eq_true', ← Bool.not_eq_true,
    List.mem_range'_1]
  constructor
  · rintro ⟨hL, hmem, hleast⟩
    exact ⟨hL, by omega, by omega, hleast⟩
  · rintro ⟨hL, hlo, hhi, hleast⟩
    exact ⟨hL, by omega, hleast⟩

theorem findPayload_eq_none {P : List Byte} {trailer : List Byte → List Byte} {lo hi : Nat} :
    findPayload P trailer lo hi = none ↔ ∀ L, lo ≤ L → L ≤ hi → ¬ TrailerAt P trailer L := by
  simp only [findPayload, List.find?_range'_eq_none, findPayload_test rfl, Bool.not_eq_true', ← Bool.not_eq_true]
  exact forall_congr' fun L => imp_congr_right fun _ => by
    rw [show L < lo + (hi + 1 - lo) ↔ L ≤ hi by omega]

/-! ### CONFIRM_RX.CIPHER (R275, R311, R312, 45_dispatch.md R348, R349) -/

/-- What both wrappers do with the decrypted buffer, and what the search found in it. -/
def confirmPayload (r : List Byte × List Byte) (found : Option Nat) (s : State) : Result :=
  match found with
  | some L => done (((s.writeBuf 0 r.1).setIv r.2).setLen L)
  | none => raise .integrity ((s.writeBuf 0 r.1).setIv r.2)

/-- CONFIRM_RX.CIPHER and CONFIRM_RX.CIPHER.S. -/
def IsConfirmRxCipher (i : Instr) : Prop := i = .confirmRxCipher ∨ ∃ q, i = .confirmRxCipherS q

/-- The status byte that CONFIRM_RX.CIPHER.S hands to the default wrapper (R349). -/
def statusOf : Instr → Option Byte
  | .confirmRxCipherS q => some q
  | _ => none

section RxCipher

variable {s : State} {i : Instr} {p : Primitive} {c : List Byte} {r : List Byte × List Byte}

theorem exec_rxCipher_of_legacy (hi : IsConfirmRxCipher i) (hs : s.session = .session)
    (hp : factory s.ctype = .legacy p) (hl : s.lenOk) : exec i s = legacyRxCipher p s := by
  rcases hi with rfl | ⟨q, rfl⟩ <;> exact (confirmRx_of_legacy hs hp).trans (whenLen_pass hl)

theorem exec_rxCipher_of_default (hi : IsConfirmRxCipher i) (hs : s.session = .session)
    (hp : factory s.ctype = .default p) (hl : s.lenOk) : exec i s = defaultRxCipher p (statusOf i) s := by
  rcases hi with rfl | ⟨q, rfl⟩ <;> exact (confirmRx_of_default hs hp).trans (whenLen_pass hl)

theorem legacyRxCipher_of_whole (hn : 8 ≤ s.n) (hm : s.n % 8 = 0) (hc : s.readBuf 0 s.n = .ok c)
    (hr : r = cbcDec s.params.blockFns p s.pkey.val (zeros 8) c) :
    legacyRxCipher p s =
      confirmPayload r (findPayload r.1 (fun y => le16 (crc16Of s.params y)) (s.n - 9) (s.n - 2)) s := by
  rw [legacyRxCipher, if_neg (by omega), withBuf_ok hc, ← hr]
  rfl

theorem defaultRxCipher_of_whole {status : Option Byte} (hn : blockSize p ≤ s.n) (hm : s.n % blockSize p = 0)
    (hc : s.readBuf 0 s.n = .ok c) (hr : r = cbcDec s.params.blockFns p s.pkey.val (s.ivB (blockSize p)) c) :
    defaultRxCipher p status s =
      confirmPayload r (findPayload r.1 (fun y => le32 (crc32Seeded s.params status y))
        (s.n - 4 - (blockSize p - 1)) (s.n - 4)) s := by
  rw [defaultRxCipher, if_neg (by omega), withBuf_ok hc, ← hr]
  rfl

theorem legacyRxCipher_of_malformed (h : s.n < 8 ∨ s.n % 8 ≠ 0) : legacyRxCipher p s = raise .integrity s :=
  if_pos h

theorem defaultRxCipher_of_malformed {status : Option Byte} (h : s.n < blockSize p ∨ s.n % blockSize p ≠ 0) :
    defaultRxCipher p status s = raise .integrity s :=
  if_pos h

end RxCipher

/-- A payload length in the window from `lo` to `hi` (R275, R311). -/
def PayloadIn (P : List Byte) (trailer : List Byte → List Byte) (lo hi L : Nat) : Prop :=
  lo ≤ L ∧ L ≤ hi ∧ TrailerAt P trailer L

/-- The search takes the shortest payload in the window; BUF and IV are written whatever it finds. -/
theorem confirmPayload_findPayload (s : State) (r : List Byte × List Byte) (trailer : List Byte → List Byte)
    (lo : Nat) {hi : Nat} (hhi : hi ≤ s.params.bufCap) :
    ∃ t, confirmPayload r (findPayload r.1 trailer lo hi) s = .next t ∧
      t = { s with mem := t.mem, len := t.len, iv := t.iv, err := t.err, ok := t.ok } ∧
      t.mem = (s.writeBuf 0 r.1).mem ∧ t.iv = fitBytes 16 r.2 ∧
      (∀ L, PayloadIn r.1 trailer lo hi L → (∀ M < L, ¬ PayloadIn r.1 trailer lo hi M) →
        t.err = .none ∧ t.ok = true ∧ t.len.toNat = L) ∧
      ((∀ L, ¬ PayloadIn r.1 trailer lo hi L) → t.err = .integrity ∧ t.ok = false ∧ t.len = s.len) := by
  rcases hfound : findPayload r.1 trailer lo hi with _ | L
  · have hnone := findPayload_eq_none.1 hfound
    exact ⟨_, rfl, rfl, rfl, rfl, fun L ⟨hlo, hhi, hat⟩ => absurd hat (hnone L hlo hhi),
      fun _ => ⟨rfl, rfl, rfl⟩⟩
  · obtain ⟨hat, hlo, hhi', hleast⟩ := findPayload_eq_some.1 hfound
    have hL : PayloadIn r.1 trailer lo hi L := ⟨hlo, hhi', hat⟩
    refine ⟨_, rfl, rfl, rfl, rfl, fun L' ⟨hlo', _, hat'⟩ hmin => ?_, fun hno => absurd hL (hno L)⟩
    have hfits : L ≤ s.params.bufCap := hhi'.trans hhi
    obtain rfl : L = L' := Nat.le_antisymm (Nat.le_of_not_lt fun hlt => hleast L' hlo' hlt hat')
      (Nat.le_of_not_lt fun hlt => hmin L hlt hL)
    exact ⟨rfl, rfl, len_toNat_of_fits hfits⟩

/-- Settles O40: either wrapper decrypts and searches the window for its own trailer, and the rest is common. -/
theorem confirmRxCipherTakesShortestPayload : Obligations.ConfirmRxCipherTakesShortestPayload := by
  unfold Obligations.ConfirmRxCipherTakesShortestPayload
  rintro s i p c P v iv b w lo trailer accepts hs hl hc rfl hn hm hwrapper hdec rfl haccepts
  obtain ⟨hexec, hiv, hw, htrailer⟩ : exec i s =
        confirmPayload (P, v) (findPayload P trailer (s.n - w - (blockSize p - 1)) (s.n - w)) s ∧
      iv.length = blockSize p ∧ w ≤ s.n ∧ ∀ y, (trailer y).length = w := by
    rcases hwrapper with ⟨hp, hi, rfl, rfl, rfl⟩ | ⟨hp, rfl, rfl, hi⟩
    · have hb := (primitiveOf_of_legacy hp).2
      rw [hb] at hn hm ⊢
      exact ⟨(exec_rxCipher_of_legacy hi hs hp hl).trans (legacyRxCipher_of_whole hn hm hc hdec.symm), zeros_length 8,
        by omega, fun y => le16_length _⟩
    · have hb := le_blockSize p
      obtain ⟨hconfirm, rfl⟩ : IsConfirmRxCipher i ∧
          trailer = fun y => le32 (crc32Seeded s.params (statusOf i) y) := by
        rcases hi with ⟨rfl, rfl⟩ | ⟨q, rfl, rfl⟩
        · exact ⟨.inl rfl, rfl⟩
        · refine ⟨.inr ⟨q, rfl⟩, funext fun y => ?_⟩
          simp only [crc32Seeded, statusOf]
          cases s.params.rxStatusSeed <;> rfl
      exact ⟨(exec_rxCipher_of_default hconfirm hs hp hl).trans (defaultRxCipher_of_whole hn hm hc hdec.symm),
        ivB_length s p, by omega, fun y => le32_length _⟩
  obtain ⟨hP, hv⟩ : P.length = s.n ∧ v.length = blockSize p := by
    have h := cbcDec_length s.params.blockFns p (s := c) s.pkey.property hiv
    rwa [hdec, State.readBuf_length hc, Nat.sub_zero, Nat.div_mul_cancel (Nat.dvd_of_mod_eq_zero hm)] at h
  obtain rfl : accepts = PayloadIn P trailer (s.n - w - (blockSize p - 1)) (s.n - w) := funext fun L => propext (by
    rw [haccepts, PayloadIn, trailerAt_iff (htrailer _), hP]
    exact and_congr_right fun _ => and_congr_left' (by omega))
  obtain ⟨t, hnext, ht, hmem, hivreg, hfound, hnone⟩ :=
    confirmPayload_findPayload s (P, v) trailer (s.n - w - (blockSize p - 1)) ((Nat.sub_le s.n w).trans hl)
  refine ⟨t, hexec.trans hnext, ht, ?_, fun a ha => ?_, ?_, hfound, hnone⟩
  · rw [State.readBuf, hmem]
    exact readBuf_writeBuf hP
  · rw [hmem]
    exact bufSameOutside_writeBuf hP (Nat.zero_le _) a ha
  · rw [hivreg]
    exact fitBytes_val_of_le hv (blockSize_le p)

/-- Settles O41: the length checks of the four receive transforms, one after another. -/
theorem malformedReceivedLengthIsIntegrity : Obligations.MalformedReceivedLengthIsIntegrity := by
  unfold Obligations.MalformedReceivedLengthIsIntegrity
  intro s p i hs hl h
  change exec i s = raise .integrity s
  rcases h with ⟨hp, rfl, hn⟩ | ⟨hp, rfl, hn⟩ | ⟨hp | hp, hi, hn⟩
  · exact (confirmRx_of_legacy hs hp).trans ((whenLen_pass hl).trans (if_pos hn))
  · exact (confirmRx_of_default hs hp).trans ((whenLen_pass hl).trans (if_pos hn))
  · rw [(primitiveOf_of_legacy hp).2] at hn
    exact (exec_rxCipher_of_legacy hi hs hp hl).trans (legacyRxCipher_of_malformed hn)
  · exact (exec_rxCipher_of_default hi hs hp hl).trans (defaultRxCipher_of_malformed hn)

end Sys2Proof.Machine
end

section
/-! SUPPORT. The CRC registers are linear, so a string fed together with its own trailer leaves a constant; at the
default CRC16_XOROUT a legacy frame then shows a trailer in one place only (43_legacy_wrapper.md R277, 90_conflicts.md
C14). -/

namespace Sys2Proof.Machine

/-! ### Linearity (46_integrity_helpers.md R380, R381) -/

theorem crcBit_xor {w : Nat} (poly c d : BitVec w) : crcBit poly (c ^^^ d) = crcBit poly c ^^^ crcBit poly d := by
  have hcancel (x y : BitVec w) : x ^^^ y = x ^^^ poly ^^^ (y ^^^ poly) := by
    rw [BitVec.xor_assoc, BitVec.xor_comm y, ← BitVec.xor_assoc poly, BitVec.xor_self, BitVec.zero_xor]
  simp only [crcBit, BitVec.getLsbD_xor, BitVec.ushiftRight_xor_distrib]
  cases c.getLsbD 0 <;> cases d.getLsbD 0
  case true.true => exact hcancel _ _
  all_goals simp <;> ac_rfl

theorem crcBits_xor {w : Nat} (poly : BitVec w) (n : Nat) (c d : BitVec w) :
    crcBits poly n (c ^^^ d) = crcBits poly n c ^^^ crcBits poly n d := by
  induction n generalizing c d with
  | zero => rfl
  | succ n ih =>
    rw [crcBits, crcBit_xor, ih]
    rfl

/-- While the bits shifted out are zeros, the polynomial takes no part. -/
theorem crcBits_of_low_zero {w : Nat} (poly : BitVec w) {n : Nat} {c : BitVec w}
    (h : ∀ i < n, c.getLsbD i = false) : crcBits poly n c = c >>> n := by
  induction n generalizing c with
  | zero => exact (BitVec.ushiftRight_zero c).symm
  | succ n ih =>
    have hbit : crcBit poly c = c >>> 1 := by simp only [crcBit, h 0 n.succ_pos, Bool.false_eq_true, if_false]
    have hrest : ∀ i < n, (c >>> 1).getLsbD i = false := fun i hi => by
      rw [BitVec.getLsbD_ushiftRight]
      exact h (1 + i) (by omega)
    rw [crcBits, hbit, ih hrest, ← BitVec.shiftRight_add, Nat.add_comm]

/-! ### A string and its own trailer (90_conflicts.md C14) -/

/-- The `n` lowest bytes of a register, the least significant first (00_scope.md R13). -/
def leBytes {w : Nat} : Nat → BitVec w → List Byte
  | 0, _ => []
  | n + 1, v => v.extractLsb' 0 8 :: leBytes n (v >>> 8)

theorem le16_eq_leBytes (v : BitVec 16) : le16 v = leBytes 2 v := by
  have hhigh : v.extractLsb' 8 8 = (v >>> 8).extractLsb' 0 8 := BitVec.eq_of_getLsbD_eq fun i _ => by simp
  rw [le16, hhigh]
  rfl

/-- Feeding the low byte of `e` cancels it in the register and brings the rest of `e` one byte down. -/
theorem crcByte_xor_low {w : Nat} (poly x e : BitVec w) :
    crcByte poly (x ^^^ e) (e.extractLsb' 0 8) = crcByte poly x 0 ^^^ e >>> 8 := by
  have hlow : ∀ i < 8, (e ^^^ (e.extractLsb' 0 8).setWidth w).getLsbD i = false := by
    intro i hi
    by_cases hw : i < w
    · simp [hi, hw]
    · simp [BitVec.getLsbD_of_ge _ _ (Nat.le_of_not_lt hw)]
  have hhigh : (e ^^^ (e.extractLsb' 0 8).setWidth w) >>> 8 = e >>> 8 := by
    refine BitVec.eq_of_getLsbD_eq fun i _ => ?_
    simp
  rw [crcByte, crcByte, BitVec.xor_assoc, crcBits_xor, crcBits_of_low_zero poly hlow, hhigh]
  simp

theorem foldl_crcByte_leBytes {w : Nat} (poly : BitVec w) {n : Nat} (x : BitVec w) {e : BitVec w}
    (he : e >>> (8 * n) = 0#w) :
    (leBytes n e).foldl (crcByte poly) (x ^^^ e) = (zeros n).foldl (crcByte poly) x := by
  induction n generalizing x e with
  | zero =>
    rw [show e = 0#w from he]
    simp [leBytes, zeros]
  | succ n ih =>
    rw [leBytes, List.foldl_cons, crcByte_xor_low, ih]
    · rfl
    · rw [← BitVec.shiftRight_add, ← he]
      congr 1
      omega

theorem crc16Raw_append (c : BitVec 16) (x y : List Byte) : crc16Raw c (x ++ y) = crc16Raw (crc16Raw c x) y :=
  List.foldl_append

/-- A string followed by its own CRC-16, whatever the string, leaves what two zero bytes make of the final xor. -/
theorem crc16Raw_append_trailer (c x : BitVec 16) (y : List Byte) :
    crc16Raw c (y ++ le16 (crc16Raw c y ^^^ x)) = crc16Raw x (zeros 2) := by
  have h := foldl_crcByte_leBytes 0x8408 (n := 2) x (e := crc16Raw c y ^^^ x)
    (BitVec.ushiftRight_eq_zero (Nat.le_refl 16))
  rw [crc16Raw_append, le16_eq_leBytes]
  rwa [BitVec.xor_comm _ x, ← BitVec.xor_assoc, BitVec.xor_self, BitVec.zero_xor, BitVec.xor_comm x] at h

/-- The equation between two constants that R277 comes down to: no run of one to seven zeros keeps the register. -/
theorem crc16Raw_zeros_ne : ∀ d < 8, d ≠ 0 → crc16Raw 0xFFFF (zeros (2 + d)) ≠ crc16Raw 0xFFFF (zeros 2) := by
  decide +kernel

/-! ### The trailer of a legacy frame (43_legacy_wrapper.md R275, R277) -/

theorem zeros_add (n k : Nat) : zeros (n + k) = zeros n ++ zeros k := List.replicate_add ..

/-- A trailer of `y` cannot lie over the bytes `u` that follow and the trailer of the whole. -/
theorem le16_crc16Of_ne_before {q : Params} (hX : q.crc16XorOut = 0xFFFF) (y : List Byte) {u : List Byte}
    (hne : u.length ≠ 0) (hlen : u.length < 8) :
    u ++ le16 (crc16Of q (y ++ u)) ≠ le16 (crc16Of q y) ++ zeros u.length := by
  intro h
  have hfull : crc16Raw (crc16Raw 0x6363 y) (u ++ le16 (crc16Of q (y ++ u))) = crc16Raw 0xFFFF (zeros 2) := by
    rw [crc16Of, hX, ← crc16Raw_append, ← List.append_assoc]
    exact crc16Raw_append_trailer ..
  have hshort : crc16Raw (crc16Raw 0x6363 y) (le16 (crc16Of q y) ++ zeros u.length) =
      crc16Raw 0xFFFF (zeros (2 + u.length)) := by
    rw [crc16Of, hX, ← crc16Raw_append, ← List.append_assoc, crc16Raw_append, crc16Raw_append_trailer, zeros_add,
      crc16Raw_append]
  exact crc16Raw_zeros_ne _ hlen hne (by rw [← hshort, ← h, hfull])

/-- The legacy wrapper's trailer. -/
abbrev legacyTrailer (q : Params) (y : List Byte) : List Byte := le16 (crc16Of q y)

theorem trailerAt_legacyTail (q : Params) (m : List Byte) : TrailerAt (legacyTail q m) (legacyTrailer q) m.length := by
  rw [TrailerAt, legacyTail_eq, List.append_assoc, List.take_left, List.drop_left]
  simp

/-- At the default CRC16_XOROUT no shorter payload of the window passes the search. -/
theorem not_trailerAt_legacyTail {q : Params} (hX : q.crc16XorOut = 0xFFFF) {m : List Byte} {M : Nat}
    (hlo : (legacyTail q m).length - 9 ≤ M) (hM : M < m.length) :
    ¬ TrailerAt (legacyTail q m) (legacyTrailer q) M := by
  intro h
  have hu : (m.drop M).length = m.length - M := List.length_drop
  have hwindow : (m.drop M).length < 8 := by
    have := padlen_ge (n := m.length + 2) (b := 8) (by decide)
    rw [legacyTail_length] at hlo
    omega
  refine le16_crc16Of_ne_before hX (m.take M) (by omega) hwindow ?_
  have hzeros : (legacyTail q m).length - M - 2 = (m.drop M).length + (8 - (m.length + 2) % 8) % 8 := by
    rw [legacyTail_length, padlen_eight]
    omega
  rw [TrailerAt, legacyTrailer, le16_length, hzeros, zeros_add, ← List.append_assoc, legacyTail_eq, List.append_assoc,
    List.take_append_of_le_length hM.le, List.drop_append_of_le_length hM.le, ← List.append_assoc] at h
  rw [List.take_append_drop]
  exact List.append_cancel_right h

/-- At the default CRC16_XOROUT the search in a legacy frame finds the message it was made of (R277). -/
theorem findPayload_legacyTail {q : Params} (hX : q.crc16XorOut = 0xFFFF) (m : List Byte) :
    findPayload (legacyTail q m) (legacyTrailer q) ((legacyTail q m).length - 9) ((legacyTail q m).length - 2) =
      some m.length := by
  have hlen : (legacyTail q m).length = m.length + 2 + (8 - (m.length + 2) % 8) % 8 := by
    rw [legacyTail_length, padlen_eight]
  exact findPayload_eq_some.2 ⟨trailerAt_legacyTail q m, by omega, by omega,
    fun M hlo hM => not_trailerAt_legacyTail hX hlo hM⟩

end Sys2Proof.Machine
end

section
/-! SUPPORT. What the legacy wrapper sends, its receiver takes back (O42, O43). -/

namespace Sys2Proof.Machine

/-! ### Strings in BUF -/

/-- Two neighbouring ranges of BUF are one. -/
theorem readBuf_append {s : State} {i j k : Nat} {x y : List Byte} (hij : i ≤ j) (hjk : j ≤ k)
    (hx : s.readBuf i j = .ok x) (hy : s.readBuf j k = .ok y) : s.readBuf i k = .ok (x ++ y) := by
  obtain ⟨hxlen, hxat⟩ := Memory.readRange_ok.1 hx
  obtain ⟨hylen, hyat⟩ := Memory.readRange_ok.1 hy
  refine Memory.readRange_ok.2 ⟨by rw [List.length_append]; omega, fun a ha => ?_⟩
  rcases Nat.lt_or_ge a (j - i) with hlt | hge
  · rw [hxat a hlt, List.getElem?_append_left (by omega)]
  · rw [List.getElem?_append_right (by omega), hxlen, ← hyat (a - (j - i)) (by omega)]
    congr 1
    omega

/-- What the string in BUF begins with is what BUF begins with. -/
theorem readBuf_of_isPrefix {s : State} {n : Nat} {m x : List Byte} (hm : m <+: x) (hx : s.readBuf 0 n = .ok x) :
    s.readBuf 0 m.length = .ok m := by
  obtain ⟨y, rfl⟩ := hm
  obtain ⟨hlen, hat⟩ := Memory.readRange_ok.1 hx
  rw [List.length_append] at hlen
  refine Memory.readRange_ok.2 ⟨rfl, fun a ha => ?_⟩
  rw [hat a (by omega), List.getElem?_append_left (by omega)]

theorem readBuf_of_sameOutside {s t : State} {i j k l : Nat} (h : bufSameOutside s t k l) (hj : j ≤ k ∨ l ≤ i) :
    t.readBuf i j = s.readBuf i j :=
  Memory.readRange_congr fun a ha => h _ (by omega)

/-- A receiver whose buffer begins with `m`, and whose LEN ends at the length of `m`, holds `m`. -/
theorem payload_of_setLen {u : State} {n : Nat} {l : BitVec 16} {m x : List Byte} (hl : l.toNat = m.length)
    (hm : m <+: x) (hu : u.readBuf 0 n = .ok x) :
    (u.setLen m.length).succeeded.len = l ∧
      (u.setLen m.length).succeeded.readBuf 0 (u.setLen m.length).succeeded.n = .ok m := by
  have hlen : BitVec.ofNat 16 m.length = l := by rw [← hl, BitVec.ofNat_toNat, BitVec.setWidth_eq]
  refine ⟨hlen, ?_⟩
  change u.readBuf 0 (BitVec.ofNat 16 m.length).toNat = .ok m
  rw [hlen, hl]
  exact readBuf_of_isPrefix hm hu

/-! ### The sender's frame (R272, R273) -/

/-- A successful PREPARE_TX of a legacy family is a run of the legacy transform. -/
theorem prepareTx_legacy_of_ok {legacy default : Primitive → State → Result} {s t : State} {p : Primitive}
    (hp : factory s.ctype = .legacy p) (h : prepareTx legacy default s = .next t) (hok : t.ok = true) :
    s.session = .session ∧ s.rangeOk ∧ legacy p s = .next t := by
  rcases prepareTx_next h with ⟨e, _, rfl⟩ | ⟨hs, hr, q, ⟨hq, h⟩ | ⟨hq, _⟩⟩
  · cases hok
  · obtain rfl : q = p := by simpa [hp] using hq.symm
    exact ⟨hs, hr, h⟩
  · simp [hp] at hq

theorem legacyTxMac_fits_of_ok {s t : State} {p : Primitive} (h : legacyTxMac p s = .next t) (hok : t.ok = true) :
    s.fits (s.n + 4) := by
  rcases legacyTxMac_next h with ⟨_, rfl⟩ | ⟨x, hf, _⟩
  · cases hok
  · exact hf

theorem legacyTxCipher_fits_of_ok {s t : State} {p : Primitive} (h : legacyTxCipher p s = .next t)
    (hok : t.ok = true) : s.fits (s.o + padlen (s.n - s.o + 2) 8) := by
  rcases legacyTxCipher_next h with ⟨_, rfl⟩ | ⟨x, hf, _⟩
  · cases hok
  · exact hf

/-- The frame of legacy PREPARE_TX.MAC at OFS = 0: the message and the first four bytes of its MAC. -/
theorem legacyMacFrame_of_ok {a a' : State} {p : Primitive} {m : List Byte} (hp : factory a.ctype = .legacy p)
    (ho : a.o = 0) (hm : a.readBuf 0 a.n = .ok m) (hsend : exec .prepareTxMac a = .next a') (hok : a'.ok = true) :
    a'.n ≤ a.params.bufCap ∧ a'.n = m.length + 4 ∧
      a'.readBuf 0 a'.n = .ok (m ++ (legacyMac a.params.blockFns p a.pkey.val m).take 4) := by
  obtain ⟨hs, hrange, hrun⟩ := prepareTx_legacy_of_ok hp hsend hok
  have hfits := legacyTxMac_fits_of_ok hrun hok
  have hmlen : m.length = a.n := State.readBuf_length hm
  obtain ⟨t, hnext, -, hlen, hmac, hsame, -⟩ := legacyPrepareTxMacAppendsFourBytes a p m _ hs hp hrange.2 hfits
    (ho.symm ▸ hm) (legacyMac_eq _ _ _ rfl)
  obtain rfl : a' = t := by simpa [hsend] using hnext
  have hn : a'.n = a.n + 4 := hlen
  have hkept := (readBuf_of_sameOutside hsame (.inl (Nat.le_refl _))).trans hm
  rw [hn]
  exact ⟨hfits, by rw [hmlen], readBuf_append (Nat.zero_le _) (Nat.le_add_right _ 4) hkept hmac⟩

/-- The frame of legacy PREPARE_TX.CIPHER at OFS = 0: the message, its CRC-16 and padding, encrypted. -/
theorem legacyCipherFrame_of_ok {a a' : State} {p : Primitive} {m : List Byte} (hp : factory a.ctype = .legacy p)
    (ho : a.o = 0) (hm : a.readBuf 0 a.n = .ok m) (hsend : exec .prepareTxCipher a = .next a')
    (hok : a'.ok = true) :
    a'.n ≤ a.params.bufCap ∧ a'.n = (legacyTail a.params m).length ∧
      a'.readBuf 0 a'.n = .ok (cbcEnc a.params.blockFns p a.pkey.val (zeros 8) (legacyTail a.params m)).1 := by
  obtain ⟨hs, hrange, hrun⟩ := prepareTx_legacy_of_ok hp hsend hok
  have hfits : a.o + (legacyTail a.params m).length ≤ a.params.bufCap := by
    rw [legacyTail_length, State.readBuf_length hm, ← ho]
    exact legacyTxCipher_fits_of_ok hrun hok
  obtain ⟨t, hnext, -, hlen, hcipher, -⟩ := legacyPrepareTxCipherEncryptsTail a p m _ _ hs hp hrange.2 hrange.1
    (ho.symm ▸ hm) (legacyTail_eq ..) hfits rfl
  obtain rfl : a' = t := by simpa [hsend] using hnext
  rw [ho, Nat.zero_add] at hlen hcipher hfits
  have hn : a'.n = (legacyTail a.params m).length := hlen
  rw [hn]
  exact ⟨hfits, rfl, hcipher⟩

/-! ### The receiver (R158, R274, R275) -/

/-- The receiver of a frame of `m` and its MAC computes the same MAC. -/
theorem execConfirmRxMac_of_frame {s : State} {p : Primitive} {m v : List Byte} (hs : s.session = .session)
    (hp : factory s.ctype = .legacy p) (hl : s.lenOk) (hn : s.n = m.length + 4)
    (hv : v = legacyMac s.params.blockFns p s.pkey.val m) (hw : s.readBuf 0 s.n = .ok (m ++ v.take 4)) :
    execConfirmRxMac s = .next ((s.setIv v).setLen m.length).succeeded := by
  have hpayload : s.n - 4 = m.length := by omega
  have hsame : v = legacyMac s.params.blockFns p s.pkey.val ((m ++ v.take 4).take (s.n - 4)) := by
    rwa [hpayload, List.take_left]
  rw [execConfirmRxMac_of_legacy hs hp hl (by omega) hw hsame,
    confirmMac_of_match (by rw [hpayload, List.drop_left]), hpayload]

theorem isPrefix_legacyTail (q : Params) (m : List Byte) : m <+: legacyTail q m := by
  rw [legacyTail_eq, List.append_assoc]
  exact ⟨_, rfl⟩

/-- The receiver of an encrypted tail decrypts it and takes the message from it. -/
theorem legacyRxCipher_of_frame {s : State} {p : Primitive} {m C v : List Byte} (hX : s.params.crc16XorOut = 0xFFFF)
    (hb : blockSize p = 8) (hn : s.n = (legacyTail s.params m).length) (hC : s.readBuf 0 s.n = .ok C)
    (henc : cbcEnc s.params.blockFns p s.pkey.val (zeros 8) (legacyTail s.params m) = (C, v)) :
    legacyRxCipher p s =
      .next (((s.writeBuf 0 (legacyTail s.params m)).setIv v).setLen m.length).succeeded := by
  have hwhole := legacyTail_whole s.params m
  have hlong : 8 ≤ s.n := by
    rw [hn, legacyTail_length, padlen_eight]
    omega
  have hdec := cbcRoundTrip _ p _ (zeros 8) _ C v s.pkey.property (by simp [hb]) (by rw [hb, hwhole]) henc
  rw [legacyRxCipher_of_whole hlong (by rw [hn, hwhole]) hC hdec.symm, hn, findPayload_legacyTail hX]
  rfl

/-! ### The round trips (R277, 45_dispatch.md R362) -/

/-- Settles O42: the receiver takes the frame of the message and its MAC, and keeps BUF. -/
theorem legacyMacRoundTrip : Obligations.LegacyMacRoundTrip := by
  unfold Obligations.LegacyMacRoundTrip
  intro a a' r p m w hp ho hm hsend hok hw hs hparams hctype hpkey hlen hr
  obtain ⟨hfits, hn, hframe⟩ := legacyMacFrame_of_ok hp ho hm hsend hok
  obtain rfl : w = _ := Except.ok.inj (hw.symm.trans hframe)
  have hrn : r.n = a'.n := congrArg BitVec.toNat hlen
  have hrecv := execConfirmRxMac_of_frame hs (hctype ▸ hp) (by rw [State.lenOk, hrn, hparams]; exact hfits)
    (hrn.trans hn) (by rw [hparams, hpkey]) hr
  exact ⟨_, hrecv, rfl, payload_of_setLen (State.readBuf_length hm).symm ⟨_, rfl⟩ hr⟩

/-- Settles O43: the receiver decrypts the padded tail, and finds no trailer in it before the message's end. -/
theorem legacyCipherRoundTrip : Obligations.LegacyCipherRoundTrip := by
  unfold Obligations.LegacyCipherRoundTrip
  intro a a' r p m w hp ho hX hm hsend hok hw hs hparams hctype hpkey hlen hr
  obtain ⟨hfits, hn, hframe⟩ := legacyCipherFrame_of_ok hp ho hm hsend hok
  obtain rfl : w = _ := Except.ok.inj (hw.symm.trans hframe)
  have hrn : r.n = a'.n := congrArg BitVec.toNat hlen
  have hpr : factory r.ctype = .legacy p := hctype ▸ hp
  have hl : r.lenOk := by rw [State.lenOk, hrn, hparams]; exact hfits
  rw [← hparams] at hX hn hr
  rw [← hpkey] at hr
  have hrecv := (exec_rxCipher_of_legacy (.inl rfl) hs hpr hl).trans
    (legacyRxCipher_of_frame hX (primitiveOf_of_legacy hp).2 (hrn.trans hn) hr rfl)
  have hdecrypted := readBuf_writeBuf (s := r) (Nat.sub_zero (legacyTail r.params m).length).symm
  exact ⟨_, hrecv, rfl, payload_of_setLen (State.readBuf_length hm).symm (isPrefix_legacyTail _ m) hdecrypted⟩

end Sys2Proof.Machine
end

section
/-! SUPPORT. The transmit transforms of the default wrapper (O36, O37, O38). -/

namespace Sys2Proof.Machine

/-! ### The plaintext of DTX_CIPHER (44_default_wrapper.md R302) -/

/-- The two block sizes (00_scope.md R8, 10_state.md R56). -/
theorem blockSize_eq (p : Primitive) : blockSize p = 8 ∨ blockSize p = 16 := by
  cases p
  case aes128 => exact .inr rfl
  all_goals exact .inl rfl

theorem defaultPlain_eq (q : Params) (b o : Nat) (x : List Byte) :
    defaultPlain q b o x = x ++ le32 (crc32Of q x) ++ zeros ((b - (x.length + 4 - o) % b) % b) := by
  simp only [defaultPlain, defaultPad, List.length_append, le32_length]

/-- The tail from OFS is whole blocks, and not none. -/
theorem drop_defaultPlain_whole (q : Params) (p : Primitive) {o : Nat} {x : List Byte} (ho : o ≤ x.length) :
    ((defaultPlain q (blockSize p) o x).drop o).length % blockSize p = 0 ∧
      blockSize p ≤ ((defaultPlain q (blockSize p) o x).drop o).length := by
  rw [List.length_drop, defaultPlain_length, defaultPad]
  obtain hb | hb := blockSize_eq p <;> rw [hb] <;> omega

/-- The encrypted tail takes its place byte for byte, and leaves one block as chaining value. -/
theorem cbcEnc_defaultPlain_length (fns : BlockFns) (p : Primitive) (K : ByteArr 24) (q : Params) {o : Nat}
    {iv x : List Byte} (hiv : iv.length = blockSize p) (ho : o ≤ x.length) :
    (cbcEnc fns p K.val iv ((defaultPlain q (blockSize p) o x).drop o)).1.length =
        (defaultPlain q (blockSize p) o x).length - o ∧
      (cbcEnc fns p K.val iv ((defaultPlain q (blockSize p) o x).drop o)).2.length = blockSize p := by
  have h := cbcEnc_length fns p (s := (defaultPlain q (blockSize p) o x).drop o) K.property hiv
  rwa [Nat.div_mul_cancel (Nat.dvd_of_mod_eq_zero (drop_defaultPlain_whole q p ho).1), List.length_drop] at h

/-! ### The commands past their checks (R301, R302, R303) -/

theorem execPrepareTxMac_of_default {s : State} {p : Primitive} {x v : List Byte} (hs : s.session = .session)
    (hp : factory s.ctype = .default p) (ho : s.o ≤ s.n) (hf : s.fits (s.n + 8)) (hx : s.readBuf 0 s.n = .ok x)
    (hv : v = (s.cmac p (s.ivB (blockSize p)) x).2) :
    execPrepareTxMac s = .next (((s.writeBuf s.n (v.take 8)).setLen (s.n + 8)).setIv v).succeeded := by
  have hr : s.rangeOk := ⟨by omega, ho⟩
  subst hv
  rw [execPrepareTxMac, prepareTx_of_default hs hp, whenRange_pass hr, defaultTxMac, whenFits_pass hf, withBuf_ok hx]
  rfl

theorem execPrepareTxCipher_of_default {s : State} {p : Primitive} {x : List Byte} {r : List Byte × List Byte}
    {total : Nat} (hs : s.session = .session) (hp : factory s.ctype = .default p) (hr : s.rangeOk)
    (ht : total = s.n + 4 + defaultPad (blockSize p) s.o (s.n + 4)) (hf : s.fits total)
    (hx : s.readBuf 0 s.n = .ok x)
    (henc : r = cbcEnc s.params.blockFns p s.pkey.val (s.ivB (blockSize p))
      ((defaultPlain s.params (blockSize p) s.o x).drop s.o)) :
    execPrepareTxCipher s =
      .next (((s.writeBuf s.o r.1).setLen total).setIv (s.cmac p r.2 r.1).2).succeeded := by
  subst ht henc
  rw [execPrepareTxCipher, prepareTx_of_default hs hp, whenRange_pass hr, defaultTxCipher, whenFits_pass hf,
    withBuf_ok hx, done_eq]

/-- Settles O36: the appended bytes are the first eight of the final chaining block, which is one block. -/
theorem defaultPrepareTxMacAppendsCmac8 : Obligations.DefaultPrepareTxMacAppendsCmac8 := by
  unfold Obligations.DefaultPrepareTxMacAppendsCmac8
  rintro s p x v b hs hp rfl ho hfits hx hv
  have hlen : v.length = blockSize p := hv ▸ (cmac_length s x (ivB_length s p)).2
  have hmac : (v.take 8).length = s.n + 8 - s.n := by
    rw [List.length_take_of_le (hlen ▸ le_blockSize p), Nat.add_sub_cancel_left]
  exact ⟨_, execPrepareTxMac_of_default hs hp ho hfits hx hv, rfl, len_toNat_of_fits hfits, readBuf_writeBuf hmac,
    bufSameOutside_writeBuf hmac (by omega), fitBytes_val_of_le hlen (blockSize_le p)⟩

/-- Settles O37: the tail from OFS is whole blocks, so the ciphertext takes its place byte for byte; the CMAC over it
starts from its chaining value and leaves one block. -/
theorem defaultPrepareTxCipherEncryptsAndChains : Obligations.DefaultPrepareTxCipherEncryptsAndChains := by
  unfold Obligations.DefaultPrepareTxCipherEncryptsAndChains
  rintro s p x t' v r b hs hp rfl ho hcap hx ht' hfits hr hv
  rw [← defaultPlain_eq] at ht'
  subst ht'
  have hxlen : x.length = s.n := State.readBuf_length hx
  have hofs : s.o ≤ x.length := hxlen ▸ ho
  obtain ⟨hspan, hchain⟩ :=
    cbcEnc_defaultPlain_length s.params.blockFns p s.pkey s.params (ivB_length s p) hofs
  change r = cbcEnc _ p _ (s.ivB (blockSize p)) _ at hr
  rw [← hr] at hspan hchain
  have htotal := defaultPlain_length s.params (blockSize p) s.o x
  have hend : s.o ≤ (defaultPlain s.params (blockSize p) s.o x).length := by omega
  rw [hxlen] at htotal
  have hvlen : v.length = blockSize p := hv ▸ (cmac_length s r.1 hchain).2
  subst hv
  exact ⟨_, execPrepareTxCipher_of_default hs hp ⟨hcap, ho⟩ htotal hfits hx hr, rfl, len_toNat_of_fits hfits,
    readBuf_writeBuf hspan, bufSameOutside_writeBuf hspan hend, fitBytes_val_of_le hvlen (blockSize_le p)⟩

/-! ### A ciphertext of one block (R302, R303, 95_test_vectors.md 2.5) -/

theorem cbcEnc_of_one_block (fns : BlockFns) {p : Primitive} (K iv : List Byte) {x : List Byte}
    (hx : x.length = blockSize p) :
    cbcEnc fns p K iv x = (blockEnc fns p K (xorBytes x iv), blockEnc fns p K (xorBytes x iv)) := by
  have hblocks : blocks (blockSize p) x = [x] := by
    rw [blocks_of_length (m := 1) (by omega), blocksOf, blocksOf, List.take_of_length_le hx.le]
  simp only [cbcEnc, hblocks, cbcEncBlocks, List.append_nil]

/-- A subkey register holds a block (42_cmac.md R242). -/
theorem sk1_take_length (s : State) (p : Primitive) : (s.sk1.val.take (blockSize p)).length = blockSize p :=
  List.length_take_of_le (s.sk1.property.symm ▸ blockSize_le p)

theorem xorBytes_comm (s t : List Byte) : xorBytes s t = xorBytes t s :=
  List.zipWith_comm_of_comm BitVec.xor_comm

/-- The CMAC of one block from that same block: the two cancel, and the subkey is what is encrypted. -/
theorem cmac_of_own_block (s : State) {p : Primitive} {c : List Byte} (hc : c.length = blockSize p) :
    (s.cmac p c c).2 = blockEnc s.params.blockFns p s.pkey.val (s.sk1.val.take (blockSize p)) := by
  have hpos := blockSize_pos p
  have hformat (K2 : List Byte) : cmacFormat (blockSize p) (s.sk1.val.take (blockSize p)) K2 c =
      xorBytes c (s.sk1.val.take (blockSize p)) := by
    rw [cmacFormat_of_whole (by omega) (by rw [hc, Nat.mod_self]), maskLast, hc, Nat.sub_self]
    rfl
  have hsk1 := sk1_take_length s p
  rw [State.cmac, hformat, cbcMac, cbcEnc_of_one_block _ _ _ (by simp [hc, hsk1]), xorBytes_comm c,
    xorBytes_cancel (hsk1.trans hc.symm).le]

/-- A successful PREPARE_TX of a default family is a run of the default transform. -/
theorem prepareTx_default_of_ok {legacy default : Primitive → State → Result} {s t : State} {p : Primitive}
    (hp : factory s.ctype = .default p) (h : prepareTx legacy default s = .next t) (hok : t.ok = true) :
    s.session = .session ∧ s.rangeOk ∧ default p s = .next t := by
  rcases prepareTx_next h with ⟨e, _, rfl⟩ | ⟨hs, hr, q, ⟨hq, _⟩ | ⟨hq, h⟩⟩
  · cases hok
  · simp [hp] at hq
  · obtain rfl : q = p := by simpa [hp] using hq.symm
    exact ⟨hs, hr, h⟩

/-- Settles O38: LEN ends one block after OFS, so the tail is one block, and the CMAC over its ciphertext starts from
that ciphertext. -/
theorem oneBlockCiphertextLeavesConstantIv : Obligations.OneBlockCiphertextLeavesConstantIv := by
  unfold Obligations.OneBlockCiphertextLeavesConstantIv
  rintro s t p b hp rfl hsend hok hlen
  obtain ⟨_, _, hrun⟩ := prepareTx_default_of_ok hp hsend hok
  obtain ⟨total, htotal, ⟨_, rfl⟩ | ⟨x, r, hfits, hx, hr, rfl⟩⟩ := defaultTxCipher_next hrun
  · cases hok
  · have hend : total = s.o + blockSize p := (len_toNat_of_fits hfits).symm.trans hlen
    have htail : ((defaultPlain s.params (blockSize p) s.o x).drop s.o).length = blockSize p := by
      rw [List.length_drop, defaultPlain_length, State.readBuf_length hx, Nat.sub_zero, ← htotal, hend,
        Nat.add_sub_cancel_left]
    have hkey := s.pkey.property
    have hblock : r.1.length = blockSize p ∧ r.2 = r.1 := by
      rw [hr, cbcEnc_of_one_block _ _ _ htail]
      exact ⟨blockEnc_length _ p hkey (by simp [htail, ivB_length]), rfl⟩
    rw [hblock.2, cmac_of_own_block s hblock.1]
    exact fitBytes_val_of_le (blockEnc_length _ p hkey (sk1_take_length s p)) (blockSize_le p)

end Sys2Proof.Machine
end

section
/-! SUPPORT. The search for the payload in a padded string, and why at the default CRC32_XOROUT it finds no CRC-32
before the message's end (44_default_wrapper.md R311, R314; 90_conflicts.md C14). -/

namespace Sys2Proof.Machine

/-! ### The search in a message, its trailer and zeros (R311) -/

/-- What no split of the message into a payload and a rest allows: a trailer of the payload lying over the rest and
the trailer of the whole. -/
def TrailerNotBefore (trailer : List Byte → List Byte) (y u : List Byte) : Prop :=
  u ++ trailer (y ++ u) ≠ trailer y ++ zeros u.length

/-- In a message, its trailer and zeros, no payload shorter than the message passes the search where no trailer lies
before the message's own. -/
theorem not_trailerAt_padded {trailer : List Byte → List Byte} {w k M : Nat} {m : List Byte}
    (hw : ∀ y, (trailer y).length = w) (hM : M < m.length)
    (hne : TrailerNotBefore trailer (m.take M) (m.drop M)) : ¬ TrailerAt (m ++ trailer m ++ zeros k) trailer M := by
  intro h
  have hzeros : (m ++ trailer m ++ zeros k).length - M - w = (m.drop M).length + k := by
    simp only [List.length_append, List.length_drop, hw, zeros_length]
    omega
  rw [TrailerAt, hw, hzeros, zeros_add, List.append_assoc m, List.take_append_of_le_length hM.le,
    List.drop_append_of_le_length hM.le, ← List.append_assoc, ← List.append_assoc] at h
  refine hne ?_
  rw [List.take_append_drop]
  exact List.append_cancel_right h

theorem trailerAt_padded (trailer : List Byte → List Byte) (k : Nat) (m : List Byte) :
    TrailerAt (m ++ trailer m ++ zeros k) trailer m.length := by
  rw [TrailerAt, List.append_assoc, List.take_left, List.drop_left]
  simp

theorem findPayload_padded {trailer : List Byte → List Byte} {w k lo hi : Nat} {m : List Byte}
    (hw : ∀ y, (trailer y).length = w) (hlo : lo ≤ m.length) (hhi : m.length ≤ hi)
    (hne : ∀ y u, u.length ≠ 0 → u.length ≤ m.length - lo → TrailerNotBefore trailer y u) :
    findPayload (m ++ trailer m ++ zeros k) trailer lo hi = some m.length :=
  findPayload_eq_some.2 ⟨trailerAt_padded trailer k m, hlo, hhi, fun M hloM hM =>
    not_trailerAt_padded hw hM (hne _ _ (by rw [List.length_drop]; omega) (by rw [List.length_drop]; omega))⟩

/-! ### A string and its own CRC-32 (46_integrity_helpers.md R381) -/

theorem le32_eq_leBytes (v : BitVec 32) : le32 v = leBytes 4 v := by
  have hbyte (k : Nat) : v.extractLsb' k 8 = (v >>> k).extractLsb' 0 8 := BitVec.eq_of_getLsbD_eq fun i _ => by simp
  rw [le32, hbyte 8, hbyte 16, hbyte 24, BitVec.shiftRight_add v 8 16, BitVec.shiftRight_add v 8 8]
  rfl

theorem crc32Raw_append (c : BitVec 32) (x y : List Byte) : crc32Raw c (x ++ y) = crc32Raw (crc32Raw c x) y :=
  List.foldl_append

/-- A string followed by its own CRC-32, whatever the string, leaves what four zero bytes make of the final xor. -/
theorem crc32Raw_append_trailer (q : Params) (y : List Byte) :
    crc32Raw 0xFFFFFFFF (y ++ le32 (crc32Of q y)) = crc32Raw q.crc32XorOut (zeros 4) := by
  have h := foldl_crcByte_leBytes 0xEDB88320 (n := 4) q.crc32XorOut (e := crc32Of q y)
    (BitVec.ushiftRight_eq_zero (Nat.le_refl 32))
  have hreg : q.crc32XorOut ^^^ crc32Of q y = crc32Raw 0xFFFFFFFF y := by
    rw [crc32Of, BitVec.xor_comm, BitVec.xor_assoc, BitVec.xor_self, BitVec.xor_zero]
  rwa [crc32Raw_append, le32_eq_leBytes, ← hreg]

/-- The equation between two constants that R314 comes down to: no run of one to fifteen zeros keeps the register. -/
theorem crc32Raw_zeros_ne :
    ∀ d < 16, d ≠ 0 → crc32Raw 0xFFFFFFFF (zeros (4 + d)) ≠ crc32Raw 0xFFFFFFFF (zeros 4) := by
  decide +kernel

/-- The default wrapper's trailer where there is no status byte (R302, R311). -/
abbrev defaultTrailer (q : Params) (y : List Byte) : List Byte := le32 (crc32Of q y)

/-- At the default CRC32_XOROUT a CRC-32 does not lie over the last bytes of a longer message and its CRC-32: fed
after the payload, the two strings leave the register different. -/
theorem defaultTrailer_notBefore {q : Params} (hX : q.crc32XorOut = 0xFFFFFFFF) (y : List Byte) {u : List Byte}
    (hne : u.length ≠ 0) (hlen : u.length < 16) : TrailerNotBefore (defaultTrailer q) y u := by
  intro h
  have hfull : crc32Raw 0xFFFFFFFF (y ++ (u ++ defaultTrailer q (y ++ u))) = crc32Raw 0xFFFFFFFF (zeros 4) := by
    rw [← List.append_assoc, crc32Raw_append_trailer, hX]
  have hshort : crc32Raw 0xFFFFFFFF (y ++ (defaultTrailer q y ++ zeros u.length)) =
      crc32Raw 0xFFFFFFFF (zeros (4 + u.length)) := by
    rw [← List.append_assoc, crc32Raw_append, crc32Raw_append_trailer, hX, ← crc32Raw_append, ← zeros_add]
  exact crc32Raw_zeros_ne _ hlen hne (by rw [← hshort, ← h, hfull])

/-- At the default CRC32_XOROUT the search in a default plaintext finds the message it was made of (R314). -/
theorem findPayload_defaultPlain {q : Params} (hX : q.crc32XorOut = 0xFFFFFFFF) (p : Primitive) (o : Nat)
    (m : List Byte) :
    findPayload (defaultPlain q (blockSize p) o m) (defaultTrailer q)
      ((defaultPlain q (blockSize p) o m).length - 4 - (blockSize p - 1))
      ((defaultPlain q (blockSize p) o m).length - 4) = some m.length := by
  have hb := blockSize_le p
  have hpad : defaultPad (blockSize p) o (m.length + 4) < blockSize p := Nat.mod_lt _ (blockSize_pos p)
  rw [defaultPlain_length, defaultPlain_eq]
  exact findPayload_padded (fun _ => le32_length _) (by omega) (by omega)
    fun y u hne hlen => defaultTrailer_notBefore hX y hne (by omega)

end Sys2Proof.Machine
end

section
/-! SUPPORT. What the default wrapper sends, its receiver takes back (O44, O45). -/

namespace Sys2Proof.Machine

/-! ### The sender's frame (R301, R302) -/

theorem defaultTxMac_fits_of_ok {s t : State} {p : Primitive} (h : defaultTxMac p s = .next t) (hok : t.ok = true) :
    s.fits (s.n + 8) := by
  rcases defaultTxMac_next h with ⟨_, rfl⟩ | ⟨x, hf, _⟩
  · cases hok
  · exact hf

theorem defaultTxCipher_fits_of_ok {s t : State} {p : Primitive} (h : defaultTxCipher p s = .next t)
    (hok : t.ok = true) : s.fits (s.n + 4 + defaultPad (blockSize p) s.o (s.n + 4)) := by
  obtain ⟨total, rfl, ⟨_, rfl⟩ | ⟨x, r, hf, _⟩⟩ := defaultTxCipher_next h
  · cases hok
  · exact hf

/-- The frame of default PREPARE_TX.MAC: the message and the first eight bytes of the final chaining block, which goes
to IV. -/
theorem defaultMacFrame_of_ok {a a' : State} {p : Primitive} {m v : List Byte} (hp : factory a.ctype = .default p)
    (hm : a.readBuf 0 a.n = .ok m) (hv : v = (a.cmac p (a.ivB (blockSize p)) m).2)
    (hsend : exec .prepareTxMac a = .next a') (hok : a'.ok = true) :
    a'.n ≤ a.params.bufCap ∧ a'.n = m.length + 8 ∧ a'.readBuf 0 a'.n = .ok (m ++ v.take 8) ∧
      a'.iv = fitBytes 16 v := by
  obtain ⟨hs, hrange, hrun⟩ := prepareTx_default_of_ok hp hsend hok
  have hfits := defaultTxMac_fits_of_ok hrun hok
  obtain ⟨t, hnext, -, hlen, hmac, hsame, hiv⟩ :=
    defaultPrepareTxMacAppendsCmac8 a p m v _ hs hp rfl hrange.2 hfits hm hv
  obtain rfl : a' = t := by simpa [hsend] using hnext
  have hn : a'.n = a.n + 8 := hlen
  have hkept := (readBuf_of_sameOutside hsame (.inl (Nat.le_refl _))).trans hm
  have hvlen : v.length = blockSize p := hv ▸ (cmac_length a m (ivB_length a p)).2
  rw [hn]
  exact ⟨hfits, by rw [State.readBuf_length hm, Nat.sub_zero],
    readBuf_append (Nat.zero_le _) (Nat.le_add_right _ 8) hkept hmac,
    Subtype.ext (hiv.trans (fitBytes_val_of_le hvlen (blockSize_le p)).symm)⟩

/-- The frame of default PREPARE_TX.CIPHER at OFS = 0: the message, its CRC-32 and padding, encrypted. -/
theorem defaultCipherFrame_of_ok {a a' : State} {p : Primitive} {m : List Byte} (hp : factory a.ctype = .default p)
    (ho : a.o = 0) (hm : a.readBuf 0 a.n = .ok m) (hsend : exec .prepareTxCipher a = .next a')
    (hok : a'.ok = true) :
    a'.n ≤ a.params.bufCap ∧ a'.n = (defaultPlain a.params (blockSize p) 0 m).length ∧
      a'.readBuf 0 a'.n = .ok (cbcEnc a.params.blockFns p a.pkey.val (a.ivB (blockSize p))
        (defaultPlain a.params (blockSize p) 0 m)).1 := by
  obtain ⟨hs, hrange, hrun⟩ := prepareTx_default_of_ok hp hsend hok
  have hfits : (defaultPlain a.params (blockSize p) a.o m).length ≤ a.params.bufCap := by
    rw [defaultPlain_length, State.readBuf_length hm]
    exact defaultTxCipher_fits_of_ok hrun hok
  obtain ⟨t, hnext, -, hlen, hcipher, -⟩ := defaultPrepareTxCipherEncryptsAndChains a p m _ _ _ _ hs hp rfl hrange.2
    hrange.1 hm (defaultPlain_eq ..) hfits rfl rfl
  obtain rfl : a' = t := by simpa [hsend] using hnext
  rw [ho] at hlen hcipher hfits
  have hn : a'.n = (defaultPlain a.params (blockSize p) 0 m).length := hlen
  rw [hn]
  exact ⟨hfits, rfl, hcipher⟩

/-! ### The receiver (R158, R310, R311) -/

/-- The common step of both wrappers on a message and the first bytes of its own MAC. -/
theorem confirmMac_of_frame {k : Nat} {m v : List Byte} {s : State} (hn : s.n = m.length + k) :
    confirmMac k v (m ++ v.take k) s = .next ((s.setIv v).setLen m.length).succeeded := by
  have hpayload : s.n - k = m.length := by omega
  rw [confirmMac_of_match (by rw [hpayload, List.drop_left]), hpayload]

/-- The receiver of a frame of `m` and its CMAC-8 computes the same CMAC. -/
theorem execConfirmRxMac_of_defaultFrame {s : State} {p : Primitive} {m v : List Byte} (hs : s.session = .session)
    (hp : factory s.ctype = .default p) (hl : s.lenOk) (hn : s.n = m.length + 8)
    (hv : v = (s.cmac p (s.ivB (blockSize p)) m).2) (hw : s.readBuf 0 s.n = .ok (m ++ v.take 8)) :
    execConfirmRxMac s = .next ((s.setIv v).setLen m.length).succeeded := by
  have hsame : v = (s.cmac p (s.ivB (blockSize p)) ((m ++ v.take 8).take (s.n - 8))).2 := by
    rwa [hn, Nat.add_sub_cancel, List.take_left]
  rw [execConfirmRxMac_of_default hs hp hl (by omega) hw hsame, confirmMac_of_frame hn]

/-- The receiver of an encrypted plaintext decrypts it and takes the message from it. -/
theorem defaultRxCipher_of_frame {s : State} {p : Primitive} {m C v : List Byte}
    (hX : s.params.crc32XorOut = 0xFFFFFFFF) (hn : s.n = (defaultPlain s.params (blockSize p) 0 m).length)
    (hC : s.readBuf 0 s.n = .ok C)
    (henc : cbcEnc s.params.blockFns p s.pkey.val (s.ivB (blockSize p)) (defaultPlain s.params (blockSize p) 0 m) =
      (C, v)) :
    defaultRxCipher p none s =
      .next (((s.writeBuf 0 (defaultPlain s.params (blockSize p) 0 m)).setIv v).setLen m.length).succeeded := by
  obtain ⟨hwhole, hlong⟩ := drop_defaultPlain_whole s.params p (Nat.zero_le m.length)
  rw [List.drop_zero] at hwhole hlong
  have hdec := cbcRoundTrip _ p _ _ _ C v s.pkey.property (ivB_length s p) hwhole henc
  have hfound := findPayload_defaultPlain hX p 0 m
  rw [← hn] at hwhole hlong hfound
  refine (defaultRxCipher_of_whole hlong hwhole hC hdec.symm).trans ?_
  simp only [crc32Seeded, hfound]
  rfl

/-! ### The round trips (R314, 45_dispatch.md R362) -/

/-- CMAC and IV_b read the parameters, the key, the subkeys and IV. -/
theorem cmac_ivB_congr {a r : State} (p : Primitive) (m : List Byte) (hparams : r.params = a.params)
    (hpkey : r.pkey = a.pkey) (hsk1 : r.sk1 = a.sk1) (hsk2 : r.sk2 = a.sk2) (hiv : r.iv = a.iv) :
    r.cmac p (r.ivB (blockSize p)) m = a.cmac p (a.ivB (blockSize p)) m := by
  simp only [State.cmac, State.ivB, hparams, hpkey, hsk1, hsk2, hiv]

/-- Settles O44: the receiver takes the frame of the message and its CMAC-8, keeps BUF, and puts the same chaining
block in IV. -/
theorem defaultMacRoundTrip : Obligations.DefaultMacRoundTrip := by
  unfold Obligations.DefaultMacRoundTrip
  intro a a' r p m w hp _ hm hsend hok hw hs hparams hctype hpkey hsk1 hsk2 hiv hlen hr
  obtain ⟨hfits, hn, hframe, hiv'⟩ := defaultMacFrame_of_ok hp hm rfl hsend hok
  obtain rfl : w = _ := Except.ok.inj (hw.symm.trans hframe)
  have hrn : r.n = a'.n := congrArg BitVec.toNat hlen
  have hrecv := execConfirmRxMac_of_defaultFrame hs (hctype ▸ hp) (by rw [State.lenOk, hrn, hparams]; exact hfits)
    (hrn.trans hn) (by rw [cmac_ivB_congr p m hparams hpkey hsk1 hsk2 hiv]) hr
  obtain ⟨hlen', hmsg⟩ := payload_of_setLen (State.readBuf_length hm).symm ⟨_, rfl⟩ hr
  exact ⟨_, hrecv, rfl, hlen', hmsg, hiv'.symm⟩

/-- Settles O45: the receiver decrypts the padded plaintext, and finds no CRC-32 in it before the message's end. -/
theorem defaultCipherRoundTrip : Obligations.DefaultCipherRoundTrip := by
  unfold Obligations.DefaultCipherRoundTrip
  intro a a' r p m w hp ho hX hm hsend hok hw hs hparams hctype hpkey _ _ hiv hlen hr
  obtain ⟨hfits, hn, hframe⟩ := defaultCipherFrame_of_ok hp ho hm hsend hok
  obtain rfl : w = _ := Except.ok.inj (hw.symm.trans hframe)
  have hrn : r.n = a'.n := congrArg BitVec.toNat hlen
  have hpr : factory r.ctype = .default p := hctype ▸ hp
  have hl : r.lenOk := by rw [State.lenOk, hrn, hparams]; exact hfits
  have hivB : a.ivB (blockSize p) = r.ivB (blockSize p) := by rw [State.ivB, State.ivB, hiv]
  rw [← hparams] at hX hn hr
  rw [← hpkey, hivB] at hr
  have hrecv := (exec_rxCipher_of_default (.inl rfl) hs hpr hl).trans
    (defaultRxCipher_of_frame hX (hrn.trans hn) hr rfl)
  have hdecrypted := readBuf_writeBuf (s := r) (Nat.sub_zero (defaultPlain r.params (blockSize p) 0 m).length).symm
  have hprefix : m <+: defaultPlain r.params (blockSize p) 0 m := by
    rw [defaultPlain_eq, List.append_assoc]
    exact ⟨_, rfl⟩
  exact ⟨_, hrecv, rfl, payload_of_setLen (State.readBuf_length hm).symm hprefix hdecrypted⟩

end Sys2Proof.Machine
end

section
/-! SUPPORT. The commands that bind a type, run a session and release it (O14, O15, O16, O17), and the plain modes
(O33). -/

namespace Sys2Proof.Machine

/-! ### Key setup and release (45_dispatch.md R331, R332, R361) -/

theorem exec_setupKey_of_match {c : CipherType} {s : State} (h : s.keylen.toNat = keyBytes c) :
    exec (.setupKey c) s = .next (s.clearStaging.bind c (slice s.key.val 0 (keyBytes c))).succeeded := if_pos h

theorem exec_setupKey_of_mismatch {c : CipherType} {s : State} (h : s.keylen.toNat ≠ keyBytes c) :
    exec (.setupKey c) s = .next (s.clearStaging.unbind.failed .keySetup) := if_neg h

/-- PKEY of a bound key: the first bytes of KEY, then zeros (45_dispatch.md R331). -/
theorem bind_pkey_val (s : State) (c : CipherType) (K : ByteArr 24) :
    (s.bind c (slice K.val 0 (keyBytes c))).pkey.val = K.val.take (keyBytes c) ++ zeros (24 - keyBytes c) :=
  fitBytes_val_of_le (by simp [K.property, keyBytes_le]) (keyBytes_le c)

/-- BSIZE by type (10_state.md R39, R56). -/
theorem bsize_of_ctype {s : State} {c : CipherType} (h : s.ctype = c) :
    s.bsize = if c = .none then 0 else if c = .aes128 then 16 else 8 := by
  rw [State.bsize, h]
  cases c <;> rfl

/-- Settles O14: KEYLEN matches and the type is bound, or it does not and the binding is lost. -/
theorem setupKeyBindsOrUnbinds : Obligations.SetupKeyBindsOrUnbinds := by
  unfold Obligations.SetupKeyBindsOrUnbinds
  intro c s
  by_cases h : s.keylen.toNat = keyBytes c
  · exact ⟨_, exec_setupKey_of_match h, rfl,
      fun _ => ⟨bind_pkey_val s.clearStaging c s.key, rfl, bsize_of_ctype rfl, rfl, rfl, rfl, rfl⟩,
      fun hne => absurd h hne⟩
  · exact ⟨_, exec_setupKey_of_mismatch h, rfl, fun heq => absurd heq h, fun _ => ⟨rfl, rfl, rfl, rfl, rfl, rfl, rfl⟩⟩

/-- Settles O17: clearing the staging, losing the binding and zeroing MAC reach every register that reset zeroes but
those kept. -/
theorem releaseLeavesResetStateButHostData : Obligations.ReleaseLeavesResetStateButHostData := by
  unfold Obligations.ReleaseLeavesResetStateButHostData
  intro s
  exact done_eq { s.clearStaging.unbind with mac := ByteArr.zero 8 }

/-! ### The start of a session (45_dispatch.md R334, R335, R336) -/

/-- SessionStart writes IV, the session state and the subkeys. -/
theorem sessionStart_eq (s : State) :
    sessionStart s = { s with
      iv := ByteArr.zero 16, session := .session, sk1 := (sessionStart s).sk1, sk2 := (sessionStart s).sk2,
      skv := (sessionStart s).skv } := by
  rcases sessionStart_cases s with ⟨_, _, h⟩ | ⟨_, h⟩
  · rw [h]
    rfl
  · rw [h]

section Start

variable {s : State}

/-- A family of the default wrapper gets its subkeys (42_cmac.md R242). -/
theorem sessionStart_derives {p : Primitive} {b : Nat} (hp : factory s.ctype = .default p) (hb : b = blockSize p) :
    (sessionStart s).skv = true ∧
      (sessionStart s).sk1.val =
        dbl b (blockEnc s.params.blockFns p s.pkey.val (zeros b)) ++ zeros (16 - b) ∧
      (sessionStart s).sk2.val = dbl b ((sessionStart s).sk1.val.take b) ++ zeros (16 - b) := by
  subst hb
  rcases sessionStart_cases s with ⟨q, hq, h⟩ | ⟨hno, _⟩
  · obtain rfl : p = q := by simpa [hp] using hq
    rw [h]
    exact ⟨rfl, deriveSubkeys_sk1_val p _, deriveSubkeys_sk2_val p _⟩
  · exact absurd hp (hno p)

/-- Without the default wrapper the subkeys stay. -/
theorem sessionStart_keeps_subkeys (hno : ∀ p, factory s.ctype ≠ .default p) :
    (sessionStart s).skv = s.skv ∧ (sessionStart s).sk1 = s.sk1 ∧ (sessionStart s).sk2 = s.sk2 := by
  rcases sessionStart_cases s with ⟨p, hp, _⟩ | ⟨_, h⟩
  · exact absurd hp (hno p)
  · rw [h]
    exact ⟨rfl, rfl, rfl⟩

theorem exec_initSession_of_range (hk : s.session ≠ .unkeyed) (hr : s.rangeOk) :
    exec .initSession s =
      .next (State.succeeded { sessionStart s with degen := degenerate s.ctype s.pkey.val }) :=
  (whenKeyed_pass hk).trans (whenRange_pass hr)

theorem exec_reinitSession_of_range (hk : s.session ≠ .unkeyed) (hr : s.rangeOk) :
    exec .reinitSession s = .next (sessionStart s).succeeded :=
  (whenKeyed_pass hk).trans (whenRange_pass hr)

end Start

theorem slice_zero (K : List Byte) (j : Nat) : slice K 0 j = K.take j := rfl

/-- DEGENERATE compares the halves of a 2K3DES key (40_primitive.md R154). -/
theorem degenerate_eq (c : CipherType) (K : List Byte) :
    degenerate c K = decide (c = .des3_2k ∧ K.take 8 = slice K 8 16) := by
  simp [degenerate, slice_zero, beq_eq_decide]

/-- Settles O15: SessionStart, with DEGENERATE taken from the bound key. -/
theorem initSessionStartsSession : Obligations.InitSessionStartsSession := by
  unfold Obligations.InitSessionStartsSession
  intro s hk hn ho
  refine ⟨_, exec_initSession_of_range hk ⟨hn, ho⟩, ?_, fun _ _ => sessionStart_derives, sessionStart_keeps_subkeys⟩
  rw [sessionStart_eq, degenerate_eq]

/-- Settles O16: SessionStart, and nothing more. -/
theorem reinitSessionKeepsDegenerate : Obligations.ReinitSessionKeepsDegenerate := by
  unfold Obligations.ReinitSessionKeepsDegenerate
  intro s hk hn ho
  refine ⟨_, exec_reinitSession_of_range hk ⟨hn, ho⟩, ?_, fun _ _ => sessionStart_derives, sessionStart_keeps_subkeys⟩
  rw [sessionStart_eq]

/-! ### The plain modes (45_dispatch.md R341, R346) -/

theorem whenSession_fail {s : State} {k : Result} (h : s.session ≠ .session) :
    whenSession s k = raise .state s := if_neg h

theorem exec_plain {i : Instr} (hi : i = .prepareTxPlain ∨ i = .confirmRxPlain) (s : State) :
    exec i s = whenSession s (done s) := by
  obtain rfl | rfl := hi <;> rfl

/-- Settles O33: both commands are the admission check and nothing else. -/
theorem plainModesArePassthrough : Obligations.PlainModesArePassthrough := by
  unfold Obligations.PlainModesArePassthrough
  intro i s hi
  rw [exec_plain hi]
  exact ⟨fun h => whenSession_pass h, fun h => whenSession_fail h⟩

end Sys2Proof.Machine
end

section
/-! SUPPORT. The integrity helpers as functions and as commands (O46, O47, O48, O49). -/

namespace Sys2Proof.Machine

/-! ### A string and its own CRC register (46_integrity_helpers.md R380, R381) -/

theorem crcByte_zero {w : Nat} (poly : BitVec w) : crcByte poly 0#w 0 = 0#w := by
  rw [crcByte, crcBits_of_low_zero poly (by simp)]
  simp

/-- A cleared register stays clear under zero bytes. -/
theorem foldl_crcByte_zeros {w : Nat} (poly : BitVec w) (n : Nat) : (zeros n).foldl (crcByte poly) 0#w = 0#w := by
  induction n with
  | zero => rfl
  | succ n ih => rwa [zeros, List.replicate_succ, List.foldl_cons, crcByte_zero]

/-- A register cancels itself: its own bytes are fed as zeros would be into a cleared one. -/
theorem foldl_crcByte_own_bytes {w : Nat} (poly : BitVec w) {n : Nat} {c : BitVec w} (hc : c >>> (8 * n) = 0#w) :
    (leBytes n c).foldl (crcByte poly) c = 0#w := by
  have h := foldl_crcByte_leBytes poly 0#w hc
  rwa [BitVec.zero_xor, foldl_crcByte_zeros] at h

theorem crc16Raw_own_bytes (c : BitVec 16) : crc16Raw c (le16 c) = 0 := by
  rw [le16_eq_leBytes]
  exact foldl_crcByte_own_bytes _ (BitVec.ushiftRight_eq_zero (Nat.le_refl 16))

theorem crc32Raw_own_bytes (c : BitVec 32) : crc32Raw c (le32 c) = 0 := by
  rw [le32_eq_leBytes]
  exact foldl_crcByte_own_bytes _ (BitVec.ushiftRight_eq_zero (Nat.le_refl 32))

/-- Settles O47: whatever the string left in the register, the register's own bytes clear it. -/
theorem crcOfMessageAndRegisterIsZero : Obligations.CrcOfMessageAndRegisterIsZero := by
  unfold Obligations.CrcOfMessageAndRegisterIsZero
  exact fun x => ⟨crc16Raw_own_bytes _, crc32Raw_own_bytes _⟩

/-! ### The CRC commands (46_integrity_helpers.md R384, R385, R386) -/

theorem crcCommand_of_range {crc : List Byte → BitVec 32} {s : State} {x : List Byte} (hr : s.rangeOk)
    (hx : s.readBuf s.o s.n = .ok x) : crcCommand crc s = .next (State.succeeded { s with result := crc x }) := by
  rw [crcCommand, whenRange_pass hr, withBuf_ok hx, done_eq]

/-- The PREFIX form is the CRC-32 of the status byte and the string (R382). -/
theorem crc32Status_eq (q : Params) (status : Byte) (x : List Byte) :
    crc32Status q status x = crc32Of q (status :: x) := rfl

/-- Settles O46: each is the shared CRC command with its own function, past the range check. -/
theorem crcCommandsWriteResult : Obligations.CrcCommandsWriteResult := by
  unfold Obligations.CrcCommandsWriteResult
  intro s x q hlen hofs hx
  have hr : s.rangeOk := ⟨hlen, hofs⟩
  refine ⟨crcCommand_of_range hr hx, crcCommand_of_range hr hx, ?_⟩
  rw [← crc32Of, ← crc32Status_eq]
  exact crcCommand_of_range hr hx

/-! ### Padded lengths (46_integrity_helpers.md R387, R388) -/

theorem dvd_padlen (n b : Nat) : b ∣ padlen n b := Nat.dvd_mul_left ..

theorem padlen_lt {n b : Nat} (hb : 0 < b) : padlen n b < n + b := by
  have := Nat.div_mul_le_self (n + b - 1) b
  unfold padlen
  omega

theorem cmacPadlen_of_ne_zero {n : Nat} (hn : n ≠ 0) (b : Nat) : cmacPadlen n b = padlen n b := if_neg hn

theorem cmacPadlen_le {n b : Nat} (hb : 0 < b) : cmacPadlen n b ≤ n + b := by
  by_cases hn : n = 0
  · simp [cmacPadlen, hn]
  · exact cmacPadlen_of_ne_zero hn b ▸ (padlen_lt hb).le

/-! ### The PADLEN commands (46_integrity_helpers.md R389, R390) -/

theorem padlenCommand_of_ne_zero (len : Nat → Nat → Nat) {b : Byte} (hb : b ≠ 0) (s : State) :
    padlenCommand len b s = .next (State.succeeded { s with result := BitVec.ofNat 32 (len s.n b.toNat) }) :=
  if_neg hb

/-- LEN has 16 bits and b has 8, so no padded length is cut in RESULT. -/
theorem result_toNat_of_le (s : State) (b : Byte) {m : Nat} (h : m ≤ s.n + b.toNat) :
    (BitVec.ofNat 32 m).toNat = m := by
  have hn : s.n < 2 ^ 16 := s.len.isLt
  have hb := b.isLt
  exact Nat.mod_eq_of_lt (by omega)

/-- Settles O48: RESULT holds the padded length in full, and that is LEN rounded up to a multiple of b. -/
theorem padlenIsLeastMultiple : Obligations.PadlenIsLeastMultiple := by
  unfold Obligations.PadlenIsLeastMultiple
  intro s b hb
  have hpos : 0 < b.toNat := Nat.pos_of_ne_zero fun h => hb (BitVec.eq_of_toNat_eq h)
  have hlt : padlen s.n b.toNat < s.n + b.toNat := padlen_lt hpos
  have hleast : b.toNat ∣ padlen s.n b.toNat ∧ s.n ≤ padlen s.n b.toNat ∧ padlen s.n b.toNat < s.n + b.toNat :=
    ⟨dvd_padlen .., padlen_ge hpos, hlt⟩
  refine ⟨⟨_, padlenCommand_of_ne_zero padlen hb s, rfl, ?_⟩,
    ⟨_, padlenCommand_of_ne_zero cmacPadlen hb s, rfl, ?_⟩⟩
  · rwa [result_toNat_of_le s b hlt.le]
  · rw [result_toNat_of_le s b (cmacPadlen_le hpos)]
    exact ⟨fun hn => if_pos hn, fun hn => cmacPadlen_of_ne_zero hn _ ▸ hleast⟩

/-! ### ROTATE (46_integrity_helpers.md R391) -/

theorem rotateBytes_eq_rotate (k : Nat) (x : List Byte) : rotateBytes k x = x.rotate k :=
  List.rotate_eq_drop_append_take_mod.symm

/-- ROTATE past its check; on an empty range it stores the empty string. -/
theorem execRotate_of_range {k : Byte} {s : State} {x : List Byte} (hr : s.rangeOk)
    (hx : s.readBuf s.o s.n = .ok x) :
    execRotate k s = .next (s.writeBuf s.o (rotateBytes k.toNat x)).succeeded := by
  rw [execRotate, whenRange_pass hr]
  split
  next hempty =>
    obtain rfl : x = [] := List.eq_nil_of_length_eq_zero ((State.readBuf_length hx).trans hempty)
    rw [done_eq, rotateBytes, List.drop_nil, List.take_nil]
    rfl
  next => rw [withBuf_ok hx, done_eq]

/-- A stored string, byte by byte. -/
theorem read_writeBuf_inside {s : State} {i j : Nat} {v : List Byte} (hj : j < v.length) :
    (s.writeBuf i v).mem.read (bufBase + i + j) = v[j]? :=
  (Memory.readRange_ok.1 (Memory.readRange_writeRange s.mem (bufBase + i) v)).2 j hj

/-- Settles O49: the stored string is the range rotated, of the range's own length. -/
theorem rotateMovesBytesLeft : Obligations.RotateMovesBytesLeft := by
  unfold Obligations.RotateMovesBytesLeft
  rintro s k x l hlen hofs rfl hx
  have hxlen := State.readBuf_length hx
  have hrot : (rotateBytes k.toNat x).length = s.n - s.o := (rotateBytes_length ..).trans hxlen
  refine ⟨_, execRotate_of_range ⟨hlen, hofs⟩ hx, rfl, bufSameOutside_writeBuf hrot hofs, fun j hj => ?_⟩
  calc (s.writeBuf s.o (rotateBytes k.toNat x)).mem.read (bufBase + s.o + j)
      = (rotateBytes k.toNat x)[j]? := read_writeBuf_inside (hrot.symm ▸ hj)
    _ = x[(j + k.toNat) % (s.n - s.o)]? := by
        rw [rotateBytes_eq_rotate, List.getElem?_rotate (hxlen.symm ▸ hj), hxlen]

end Sys2Proof.Machine
end

section
/-! SUPPORT. The step with nothing to do, the refused access, and the access that is none of the block's (O8). -/

namespace Sys2Proof.Machine

theorem step_of_idle {s : State} (hp : s.pending = []) : step s = .next s := by
  rw [step, stepBus, hp]

theorem step_of_pending {s : State} {e : HostEvent} {rest : List HostEvent} (hp : s.pending = e :: rest) :
    step s = accept e { s with pending := rest } := by
  rw [step, stepBus, hp]

theorem windowOffset_outside {p : Params} {addr : Nat} (h : addr < p.base ∨ p.base + 0x10000 ≤ addr) :
    windowOffset p addr = none :=
  if_neg (by rw [windowSize]; omega)

theorem acceptRead_outside {s : State} {addr : Nat} (h : windowOffset s.params addr = none) :
    acceptRead addr s = .fault (.outsideWindow addr) := by
  rw [acceptRead, h]

theorem acceptWrite_outside {s : State} {addr : Nat} (v : Byte) (h : windowOffset s.params addr = none) :
    acceptWrite addr v s = .fault (.outsideWindow addr) := by
  rw [acceptWrite, h]

/-- Settles O8: the step takes the pending event, and neither kind of access finds an offset outside the window. -/
theorem idleRefusalAndWindow : Obligations.IdleRefusalAndWindow := by
  unfold Obligations.IdleRefusalAndWindow
  refine ⟨fun s hp => step_of_idle hp, fun s addr width rest hp => step_of_pending hp, ?_⟩
  intro s addr rest haddr hp
  have houtside := windowOffset_outside haddr
  obtain hp | ⟨v, hp⟩ := hp
  · exact (step_of_pending hp).trans (acceptRead_outside houtside)
  · exact (step_of_pending hp).trans (acceptWrite_outside v houtside)

end Sys2Proof.Machine
end

section
/-! SUPPORT. How a command can end, said once for all commands: `done`, an error with one of the causes of
60_exceptions.md R411, or the fault on a byte of BUF that nothing has written (O50, O54, O55, O60). -/

namespace Sys2Proof.Machine

/-! ### The causes of an error (60_exceptions.md R411, R413) -/

/-- `ErrorCause i s e u`: command `i`, started in `s`, has cause to raise `e`, and raises it in state `u`. -/
inductive ErrorCause (i : Instr) (s : State) : Err → State → Prop
  | notAdmitted (h : admittedIn i s.session = false) : ErrorCause i s .state s
  | noSubkeys (hi : i = .computeCmac) (h : s.skv = false) : ErrorCause i s .state s
  | family {e} (h : familyError i s.ctype = some e) : ErrorCause i s e s
  | length (hi : checksRange i = true ∨ checksLen i = true) : ErrorCause i s .length s
  | keySetup {c} (hi : i = .setupKey c) : ErrorCause i s .keySetup s.clearStaging.unbind
  | badMac (hi : i = .confirmRxMac) (iv : ByteArr 16) : ErrorCause i s .integrity { s with iv := iv }
  | badCipher (hi : IsConfirmRxCipher i) (mem : Memory) (iv : ByteArr 16) :
      ErrorCause i s .integrity { s with mem := mem, iv := iv }
  | illFormed (hi : i.wellFormed = false) : ErrorCause i s .illegal s

/-- The table of R415 holds two codes. -/
theorem eq_of_familyError {i : Instr} {c : CipherType} {e : Err} (h : familyError i c = some e) :
    e = .unsupported ∨ e = .modeViolation := by
  cases i
  case doCryptoEnc | doCryptoDec | doCryptoMac | cmacSubkeys | computeCmac =>
    obtain ⟨_, rfl⟩ : _ ∧ Err.unsupported = e := by simpa [familyError] using h
    exact .inl rfl
  case prepareTxMac | prepareTxCipher | confirmRxMac | confirmRxCipher | confirmRxCipherS =>
    obtain ⟨_, rfl⟩ : _ ∧ Err.modeViolation = e := by simpa [familyError] using h
    exact .inr rfl
  all_goals cases h

theorem ErrorCause.ne_none {i : Instr} {s u : State} {e : Err} (h : ErrorCause i s e u) : e ≠ .none := by
  cases h with
  | family h => obtain rfl | rfl := eq_of_familyError h <;> decide
  | _ => decide

/-! ### The ways a command ends (60_exceptions.md R410, 70_reset_and_hazards.md R452) -/

/-- `CommandOutcome i s r`: command `i`, started in `s`, may answer `r`. -/
inductive CommandOutcome (i : Instr) (s : State) : Result → Prop
  | completed (u : State) : CommandOutcome i s (done u)
  | raised {e u} (h : ErrorCause i s e u) : CommandOutcome i s (raise e u)
  | faulted {j a} (hl : s.lenOk) (h : s.readBuf j s.n = .error a) :
      CommandOutcome i s (.fault (.unwrittenBuf a))

theorem whenKeyed_fail {s : State} {k : Result} (h : s.session = .unkeyed) : whenKeyed s k = raise .state s := if_pos h

namespace CommandOutcome

variable {i : Instr} {s : State} {k : Result}

theorem ite {c : Prop} [Decidable c] {q : Result} (hk : CommandOutcome i s k) (hq : CommandOutcome i s q) :
    CommandOutcome i s (if c then k else q) := by
  split
  · exact hk
  · exact hq

theorem whenKeyed (hadm : ∀ v, admittedIn i v = (v != .unkeyed)) (hk : CommandOutcome i s k) :
    CommandOutcome i s (whenKeyed s k) := by
  by_cases h : s.session = .unkeyed
  · exact whenKeyed_fail h ▸ .raised (.notAdmitted (by simp [hadm, h]))
  · exact whenKeyed_pass h ▸ hk

theorem whenSession (hadm : ∀ v, admittedIn i v = (v == .session)) (hk : CommandOutcome i s k) :
    CommandOutcome i s (whenSession s k) := by
  by_cases h : s.session = .session
  · exact whenSession_pass h ▸ hk
  · exact whenSession_fail h ▸ .raised (.notAdmitted (by simp [hadm, h]))

theorem whenRange (hi : checksRange i = true) (hk : s.lenOk → CommandOutcome i s k) :
    CommandOutcome i s (whenRange s k) := by
  by_cases h : s.rangeOk
  · exact whenRange_pass h ▸ hk h.1
  · exact whenRange_fail h ▸ .raised (.length (.inl hi))

theorem whenLen (hi : checksLen i = true) (hk : s.lenOk → CommandOutcome i s k) :
    CommandOutcome i s (whenLen s k) := by
  by_cases h : s.lenOk
  · exact whenLen_pass h ▸ hk h
  · exact whenLen_fail h ▸ .raised (.length (.inr hi))

theorem whenFits {n' : Nat} (hi : checksRange i = true) (hk : CommandOutcome i s k) :
    CommandOutcome i s (whenFits s n' k) := ite hk (.raised (.length (.inl hi)))

theorem withBuf {j : Nat} {k : List Byte → Result} (hl : s.lenOk) (hk : ∀ x, CommandOutcome i s (k x)) :
    CommandOutcome i s (withBuf s j s.n k) := by
  unfold Machine.withBuf
  split
  next data _ => exact hk data
  next a h => exact .faulted hl h

end CommandOutcome

/-! ### The commands, one shared operation after another -/

section Commands

variable {i : Instr} {s : State}

theorem crcCommand_outcome (hi : checksRange i = true) (crc : List Byte → BitVec 32) :
    CommandOutcome i s (crcCommand crc s) :=
  .whenRange hi fun hl => .withBuf hl fun _ => .completed _

theorem padlenCommand_outcome {b : Byte} (hi : b = 0 → i.wellFormed = false) (len : Nat → Nat → Nat) :
    CommandOutcome i s (padlenCommand len b s) := by
  unfold padlenCommand
  split
  next hb => exact .raised (.illFormed (hi hb))
  next => exact .completed _

theorem execRotate_outcome (k : Byte) : CommandOutcome (.rotate k) s (execRotate k s) :=
  .whenRange rfl fun hl => .ite (.completed _) (.withBuf hl fun _ => .completed _)

theorem doCrypto_outcome (hadm : ∀ v, admittedIn i v = (v != .unkeyed))
    (hfam : familyError i .none = some .unsupported) (hi : checksRange i = true)
    (F : BlockFns → Primitive → List Byte → List Byte → List Byte → List Byte × List Byte) :
    CommandOutcome i s (doCrypto F s) := by
  refine .whenKeyed hadm ?_
  split
  next hp =>
    have hc : s.ctype = .none := by
      by_contra hne
      obtain ⟨p, hp'⟩ := primitiveOf_of_ne_none hne
      simp [hp] at hp'
    exact .raised (.family (hc ▸ hfam))
  next => exact .whenRange hi fun hl => .ite (.raised (.length (.inl hi))) (.withBuf hl fun _ => .completed _)

/-- The families the CMAC commands refuse are those without the default wrapper (60_exceptions.md R415). -/
theorem not_cmac_of_factory {c : CipherType} (h : ∀ p, factory c ≠ .default p) :
    ¬ (c = .des3_3k ∨ c = .aes128) := by
  intro hc
  obtain ⟨p, hp⟩ := factory_of_cmac hc
  exact h p hp

theorem execCmacSubkeys_outcome : CommandOutcome .cmacSubkeys s (execCmacSubkeys s) := by
  refine .whenKeyed (fun _ => rfl) ?_
  split
  next => exact .completed _
  all_goals
  next hf => exact .raised (.family (if_neg (not_cmac_of_factory (by simp [hf]))))

theorem execComputeCmac_outcome : CommandOutcome .computeCmac s (execComputeCmac s) := by
  refine .whenKeyed (fun _ => rfl) ?_
  split
  next =>
    split
    next hv => exact .raised (.noSubkeys rfl hv)
    next => exact .whenRange rfl fun hl => .withBuf hl fun _ => .completed _
  all_goals
  next hf => exact .raised (.family (if_neg (not_cmac_of_factory (by simp [hf]))))

theorem execSetupKey_outcome (c : CipherType) : CommandOutcome (.setupKey c) s (execSetupKey c s) :=
  .ite (.completed _) (.raised (.keySetup rfl))

theorem ctype_of_identity {c : CipherType} (h : factory c = .identity) : c = .none := by
  cases c
  case none => rfl
  all_goals cases h

theorem prepareTx_outcome {legacy default : Primitive → State → Result}
    (hadm : ∀ v, admittedIn i v = (v == .session)) (hfam : familyError i .none = some .modeViolation)
    (hi : checksRange i = true) (hlegacy : ∀ p, s.lenOk → CommandOutcome i s (legacy p s))
    (hdefault : ∀ p, s.lenOk → CommandOutcome i s (default p s)) :
    CommandOutcome i s (prepareTx legacy default s) := by
  refine .whenSession hadm ?_
  split
  next hf => exact .raised (.family (ctype_of_identity hf ▸ hfam))
  next p _ => exact .whenRange hi (hlegacy p)
  next p _ => exact .whenRange hi (hdefault p)

theorem confirmRx_outcome {legacy default : Primitive → State → Result}
    (hadm : ∀ v, admittedIn i v = (v == .session)) (hfam : familyError i .none = some .modeViolation)
    (hi : checksLen i = true) (hlegacy : ∀ p, s.lenOk → CommandOutcome i s (legacy p s))
    (hdefault : ∀ p, s.lenOk → CommandOutcome i s (default p s)) :
    CommandOutcome i s (confirmRx legacy default s) := by
  refine .whenSession hadm ?_
  split
  next hf => exact .raised (.family (ctype_of_identity hf ▸ hfam))
  next p _ => exact .whenLen hi (hlegacy p)
  next p _ => exact .whenLen hi (hdefault p)

variable (p : Primitive)

theorem legacyTxMac_outcome (hi : checksRange i = true) (hl : s.lenOk) : CommandOutcome i s (legacyTxMac p s) :=
  .whenFits hi (.withBuf hl fun _ => .completed _)

theorem legacyTxCipher_outcome (hi : checksRange i = true) (hl : s.lenOk) :
    CommandOutcome i s (legacyTxCipher p s) :=
  .whenFits hi (.withBuf hl fun _ => .completed _)

theorem defaultTxMac_outcome (hi : checksRange i = true) (hl : s.lenOk) : CommandOutcome i s (defaultTxMac p s) :=
  .whenFits hi (.withBuf hl fun _ => .completed _)

theorem defaultTxCipher_outcome (hi : checksRange i = true) (hl : s.lenOk) :
    CommandOutcome i s (defaultTxCipher p s) :=
  .whenFits hi (.withBuf hl fun _ => .completed _)

theorem legacyRxMac_outcome (hl : s.lenOk) : CommandOutcome .confirmRxMac s (legacyRxMac p s) :=
  .ite (.raised (.badMac rfl s.iv)) (.withBuf hl fun _ => .ite (.raised (.badMac rfl _)) (.completed _))

theorem defaultRxMac_outcome (hl : s.lenOk) : CommandOutcome .confirmRxMac s (defaultRxMac p s) :=
  .ite (.raised (.badMac rfl s.iv)) (.withBuf hl fun _ => .ite (.raised (.badMac rfl _)) (.completed _))

/-- The end that both receive transforms in cipher mode share. -/
theorem confirmPayload_outcome (hi : IsConfirmRxCipher i) (r : List Byte × List Byte) (found : Option Nat) :
    CommandOutcome i s (confirmPayload r found s) := by
  cases found with
  | some L => exact .completed _
  | none => exact .raised (.badCipher hi _ _)

theorem legacyRxCipher_outcome (hi : IsConfirmRxCipher i) (hl : s.lenOk) :
    CommandOutcome i s (legacyRxCipher p s) :=
  .ite (.raised (.badCipher hi s.mem s.iv)) (.withBuf hl fun _ => confirmPayload_outcome hi _ _)

theorem defaultRxCipher_outcome (hi : IsConfirmRxCipher i) (status : Option Byte) (hl : s.lenOk) :
    CommandOutcome i s (defaultRxCipher p status s) :=
  .ite (.raised (.badCipher hi s.mem s.iv)) (.withBuf hl fun _ => confirmPayload_outcome hi _ _)

end Commands

/-- Every command ends in one of the listed ways. -/
theorem exec_outcome (i : Instr) (s : State) : CommandOutcome i s (exec i s) := by
  cases i with
  | setupKey c => exact execSetupKey_outcome c
  | initSession | reinitSession => exact .whenKeyed (fun _ => rfl) (.whenRange rfl fun _ => .completed _)
  | doCryptoEnc | doCryptoDec | doCryptoMac => exact doCrypto_outcome (fun _ => rfl) rfl rfl _
  | cmacSubkeys => exact execCmacSubkeys_outcome
  | computeCmac => exact execComputeCmac_outcome
  | prepareTxPlain | confirmRxPlain => exact .whenSession (fun _ => rfl) (.completed _)
  | prepareTxMac =>
    exact prepareTx_outcome (fun _ => rfl) rfl rfl (fun p => legacyTxMac_outcome p rfl)
      fun p => defaultTxMac_outcome p rfl
  | prepareTxCipher =>
    exact prepareTx_outcome (fun _ => rfl) rfl rfl (fun p => legacyTxCipher_outcome p rfl)
      fun p => defaultTxCipher_outcome p rfl
  | confirmRxMac => exact confirmRx_outcome (fun _ => rfl) rfl rfl legacyRxMac_outcome defaultRxMac_outcome
  | confirmRxCipher =>
    have hi : IsConfirmRxCipher .confirmRxCipher := .inl rfl
    exact confirmRx_outcome (fun _ => rfl) rfl rfl (fun p => legacyRxCipher_outcome p hi)
      fun p => defaultRxCipher_outcome p hi none
  | confirmRxCipherS status =>
    have hi : IsConfirmRxCipher (.confirmRxCipherS status) := .inr ⟨status, rfl⟩
    exact confirmRx_outcome (fun _ => rfl) rfl rfl (fun p => legacyRxCipher_outcome p hi)
      fun p => defaultRxCipher_outcome p hi (some status)
  | crc16 | crc32 | crc32S => exact crcCommand_outcome rfl _
  | padlenZero b | padlenCmac b => exact padlenCommand_outcome (by rintro rfl; rfl) _
  | rotate k => exact execRotate_outcome k
  | release => exact .completed _

/-! ### What follows for every command -/

/-- A next state is a success, or the raising of an error with its cause. -/
theorem CommandOutcome.next_cases {i : Instr} {s t : State} (h : CommandOutcome i s (.next t)) :
    (t.err = .none ∧ t.ok = true) ∨ ∃ u, ErrorCause i s t.err u ∧ t = u.failed t.err := by
  generalize hr : (.next t : Result) = r at h
  cases h with
  | completed u =>
    obtain rfl := done_next.1 hr.symm
    exact .inl ⟨rfl, rfl⟩
  | @raised e u hcause =>
    obtain rfl := raise_next.1 hr.symm
    exact .inr ⟨u, hcause, rfl⟩
  | faulted _ _ => cases hr

/-- An error of a command has a cause. -/
theorem exec_errorCause {i : Instr} {s t : State} (h : exec i s = .next t) (he : t.err ≠ .none) :
    ∃ u, ErrorCause i s t.err u ∧ t = u.failed t.err := by
  obtain ⟨hnone, _⟩ | hcause := (h ▸ exec_outcome i s).next_cases
  · exact absurd hnone he
  · exact hcause

/-- Settles O54: the state in which each cause raises its error. -/
theorem errorsChangeNothingElse : Obligations.ErrorsChangeNothingElse := by
  unfold Obligations.ErrorsChangeNothingElse
  intro i s t h he
  obtain ⟨u, hcause, ht⟩ := exec_errorCause h he
  generalize t.err = e at hcause ht ⊢
  subst ht
  cases hcause with
  | notAdmitted | noSubkeys | family | length | illFormed => exact .inl rfl
  | keySetup hi => exact .inr (.inl ⟨_, hi, rfl⟩)
  | badMac hi iv => exact .inr (.inr (.inl ⟨hi, rfl, rfl⟩))
  | badCipher hi mem iv => exact .inr (.inr (.inr ⟨hi, rfl, rfl⟩))

/-- Settles O55: each cause with the commands that can have it. -/
theorem errorsComeFromTheirCommands : Obligations.ErrorsComeFromTheirCommands := by
  unfold Obligations.ErrorsComeFromTheirCommands
  intro i s t hwf h
  by_cases he : t.err = .none
  · simp [he]
  · obtain ⟨u, hcause, _⟩ := exec_errorCause h he
    generalize t.err = e at hcause
    cases hcause with
    | notAdmitted | noSubkeys => simp
    | family hfam => obtain rfl | rfl := eq_of_familyError hfam <;> simp
    | length hi => simpa using hi
    | keySetup hi => simp [hi]
    | badMac hi => simp [hi]
    | badCipher hi => exact ⟨by simp, by simp, fun _ => .inr hi, by simp⟩
    | illFormed hi => simp [hwf] at hi

/-- Of a written range every tail is written. -/
theorem readBuf_ne_error_of_readable {s : State} {j n a : Nat} (h : s.readable 0 n) : s.readBuf j n ≠ .error a := by
  intro herr
  obtain ⟨data, hdata⟩ := h
  obtain ⟨hlo, hhi, hnone⟩ := Memory.readRange_error herr
  obtain ⟨hlen, hread⟩ := Memory.readRange_ok.1 hdata
  have hbyte := hread (a - bufBase) (by omega)
  rw [show bufBase + 0 + (a - bufBase) = a by omega, hnone, eq_comm, List.getElem?_eq_none_iff] at hbyte
  omega

theorem CommandOutcome.completes {i : Instr} {s : State} {r : Result} (h : CommandOutcome i s r)
    (hread : s.lenOk → s.readable 0 s.n) : Completes r := by
  cases h with
  | completed | raised => exact ⟨_, rfl⟩
  | faulted hl herr => exact absurd herr (readBuf_ne_error_of_readable (hread hl))

/-- Settles O60: the one way to end otherwise is a fault, and that needs an unwritten byte. -/
theorem everyCommandCompletes : Obligations.EveryCommandCompletes := by
  unfold Obligations.EveryCommandCompletes
  exact fun i s hread => (exec_outcome i s).completes hread

/-! ### ERR and OK (60_exceptions.md R412) -/

theorem sessionStart_withErrOk (s : State) (e : Err) (o : Bool) :
    sessionStart { s with err := e, ok := o } = { sessionStart s with err := e, ok := o } := by
  unfold sessionStart
  dsimp only
  split <;> rfl

/-- No command reads ERR or OK, and each of its ends writes both: but for SessionStart, which passes them on, the
two runs are the same computation. -/
theorem exec_ignores_err_ok (i : Instr) (s : State) (e : Err) (o : Bool) :
    exec i { s with err := e, ok := o } = exec i s := by
  cases i
  case initSession | reinitSession =>
    simp only [exec, execInitSession, execReinitSession, sessionStart_withErrOk]
    rfl
  all_goals rfl

theorem issue_err_iff_ok {s t : State} (h : issue s = .next t) : t.ok = true ↔ t.err = .none := by
  obtain ⟨_, _, rfl⟩ | ⟨i, _, h⟩ := issue_next h
  · simp
  · obtain ⟨herr, hok⟩ | ⟨u, hcause, ht⟩ := (h ▸ exec_outcome i s).next_cases
    · simp [herr, hok]
    · have hok : t.ok = false := by rw [ht]
      simp [hok, hcause.ne_none]

theorem issue_ignores_err_ok (s : State) (e : Err) (o : Bool) : issue { s with err := e, ok := o } = issue s := by
  unfold issue
  dsimp only
  split
  next i _ => exact exec_ignores_err_ok i s e o
  next => rfl

/-- Settles O50: an issue ends in `done` or `raise`, and reads neither register. -/
theorem everyIssueWritesErrAndOk : Obligations.EveryIssueWritesErrAndOk := by
  unfold Obligations.EveryIssueWritesErrAndOk
  exact fun s => ⟨fun t h => issue_err_iff_ok h, issue_ignores_err_ok s⟩

end Sys2Proof.Machine
end

section
/-! SUPPORT. The two admission tables: by session state (O51), then by family (O52). -/

namespace Sys2Proof.Machine

/-! ### By session state (60_exceptions.md R414) -/

theorem exec_of_not_admitted {i : Instr} {s : State} (h : admittedIn i s.session = false) :
    exec i s = raise .state s := by
  cases i
  case initSession | reinitSession | doCryptoEnc | doCryptoDec | doCryptoMac | cmacSubkeys | computeCmac =>
    exact whenKeyed_fail (by simpa [admittedIn] using h)
  case prepareTxPlain | prepareTxMac | prepareTxCipher | confirmRxPlain | confirmRxMac | confirmRxCipher |
      confirmRxCipherS =>
    exact whenSession_fail (by simpa [admittedIn] using h)
  all_goals simp [admittedIn] at h

/-- Settles O51: of the causes of STATE, an admitted command is left with the missing subkeys. -/
theorem admissionBySessionState : Obligations.AdmissionBySessionState := by
  unfold Obligations.AdmissionBySessionState
  refine fun i s => ⟨exec_of_not_admitted, fun t hadm h hstate => ?_⟩
  obtain ⟨u, hcause, _⟩ := exec_errorCause h (by simp [hstate])
  rw [hstate] at hcause
  cases hcause with
  | notAdmitted hno => simp [hadm] at hno
  | noSubkeys hi hskv => exact ⟨hi, hskv⟩
  | family hfam => simpa using eq_of_familyError hfam

/-! ### By family (60_exceptions.md R415, R420) -/

section Family

variable {s : State}

theorem doCrypto_of_no_family
    {F : BlockFns → Primitive → List Byte → List Byte → List Byte → List Byte × List Byte}
    (hk : s.session ≠ .unkeyed) (hc : s.ctype = .none) : doCrypto F s = raise .unsupported s := by
  rw [doCrypto, whenKeyed_pass hk, hc]
  rfl

theorem factory_of_not_cmac {c : CipherType} (h : ¬ (c = .des3_3k ∨ c = .aes128)) :
    factory c = .identity ∨ ∃ p, factory c = .legacy p := by
  cases c
  case none => exact .inl rfl
  case des | des3_2k => exact .inr ⟨_, rfl⟩
  all_goals simp at h

theorem exec_cmac_of_other_family {i : Instr} (hi : i = .cmacSubkeys ∨ i = .computeCmac) (hk : s.session ≠ .unkeyed)
    (hc : ¬ (s.ctype = .des3_3k ∨ s.ctype = .aes128)) : exec i s = raise .unsupported s := by
  obtain hf | ⟨p, hf⟩ := factory_of_not_cmac hc <;> obtain rfl | rfl := hi <;>
    simp [exec, execCmacSubkeys, execComputeCmac, whenKeyed_pass hk, hf]

theorem prepareTx_of_no_family {legacy default : Primitive → State → Result} (hs : s.session = .session)
    (hc : s.ctype = .none) : prepareTx legacy default s = raise .modeViolation s := by
  rw [prepareTx, whenSession_pass hs, hc]
  rfl

theorem confirmRx_of_no_family {legacy default : Primitive → State → Result} (hs : s.session = .session)
    (hc : s.ctype = .none) : confirmRx legacy default s = raise .modeViolation s := by
  rw [confirmRx, whenSession_pass hs, hc]
  rfl

theorem exec_of_familyError {i : Instr} {e : Err} (hadm : admittedIn i s.session = true)
    (h : familyError i s.ctype = some e) : exec i s = raise e s := by
  cases i
  case doCryptoEnc | doCryptoDec | doCryptoMac =>
    obtain ⟨hc, rfl⟩ : s.ctype = .none ∧ Err.unsupported = e := by simpa [familyError] using h
    exact doCrypto_of_no_family (by simpa [admittedIn] using hadm) hc
  case cmacSubkeys | computeCmac =>
    obtain ⟨hc, rfl⟩ : ¬ (s.ctype = .des3_3k ∨ s.ctype = .aes128) ∧ Err.unsupported = e := by
      simpa [familyError] using h
    exact exec_cmac_of_other_family (by simp) (by simpa [admittedIn] using hadm) hc
  case prepareTxMac | prepareTxCipher =>
    obtain ⟨hc, rfl⟩ : s.ctype = .none ∧ Err.modeViolation = e := by simpa [familyError] using h
    exact prepareTx_of_no_family (by simpa [admittedIn] using hadm) hc
  case confirmRxMac | confirmRxCipher | confirmRxCipherS =>
    obtain ⟨hc, rfl⟩ : s.ctype = .none ∧ Err.modeViolation = e := by simpa [familyError] using h
    exact confirmRx_of_no_family (by simpa [admittedIn] using hadm) hc
  all_goals simp [familyError] at h

end Family

/-- Settles O52: the family is looked at next after the session state, and no other cause has its two codes. -/
theorem admissionByFamily : Obligations.AdmissionByFamily := by
  unfold Obligations.AdmissionByFamily
  refine fun i s hadm => ⟨fun e => exec_of_familyError hadm, fun t h he => ?_⟩
  obtain ⟨u, hcause, _⟩ := exec_errorCause h (by rcases he with he | he <;> simp [he])
  generalize t.err = e at hcause he ⊢
  cases hcause with
  | family hfam => exact hfam
  | _ => simp at he

end Sys2Proof.Machine
end

section
/-! SUPPORT. Reset, and what a command does to BUF: the reset state and the reset input (O13, O19), the one fault of a
command (O59), and the bytes of BUF that a command leaves alone (O58). -/

namespace Sys2Proof.Machine

/-! ### Reset (70_reset_and_hazards.md R450, R452) -/

/-- In the reset state the reset input changes nothing. -/
theorem acceptReset_reset : acceptReset State.reset = State.reset := rfl

/-- Settles O19: the reset state is what the reset input leaves. -/
theorem resetHasInvariant : Obligations.ResetHasInvariant := by
  unfold Obligations.ResetHasInvariant
  rw [← acceptReset_reset]
  exact .acceptReset

@[simp] theorem byteOfWord_zero (i : Nat) : byteOfWord 0#32 i = 0 := BitVec.extractLsb'_zero

@[simp] theorem byteOf16_zero (i : Nat) : byteOf16 0#16 i = 0 := BitVec.extractLsb'_zero

@[simp] theorem byteAt_zero (n i : Nat) : byteAt (ByteArr.zero n) i = 0 := by
  by_cases h : i < n <;> simp [byteAt, ByteArr.zero, h]

theorem byteArr_zero_val (n : Nat) : (ByteArr.zero n).val = zeros n := rfl

theorem acceptReset_status (s : State) : (acceptReset s).status = 0 := by
  simp [State.status, Session.code]

theorem acceptReset_bsize (s : State) : (acceptReset s).bsize = 0 := rfl

/-- After the reset input each register that a host can read shows zero bytes (10_state.md R34). -/
theorem registerByte_acceptReset (s : State) (a : Nat) : (acceptReset s).registerByte a = 0 := by
  simp [State.registerByte, acceptReset_status, acceptReset_bsize, Err.code, CipherType.code]

/-- Settles O13: the step takes the reset input, whose registers and memory are those of the reset state. -/
theorem resetInputClearsTheBlock : Obligations.ResetInputClearsTheBlock := by
  unfold Obligations.ResetInputClearsTheBlock
  intro s rest hp
  refine ⟨acceptReset { s with pending := rest }, step_of_pending hp, ?_⟩
  have hregs : ∀ a < 0x100, (acceptReset { s with pending := rest }).windowRead a = some 0x00 := fun a ha => by
    rw [windowRead_register _ ha, registerByte_acceptReset]
  simpa [byteArr_zero_val, Memory.read] using hregs

/-! ### The one fault of a command (70_reset_and_hazards.md R452, 60_exceptions.md R410) -/

/-- A read of BUF up to `j` fails only at a byte of BUF below `j` that holds no value. -/
theorem readBuf_error {s : State} {i j a : Nat} (h : s.readBuf i j = .error a) :
    ∃ k, a = bufBase + k ∧ k < j ∧ s.mem.read (bufBase + k) = none := by
  obtain ⟨hlo, hhi, hnone⟩ := Memory.readRange_error h
  obtain ⟨k, rfl⟩ := Nat.exists_eq_add_of_le (show bufBase ≤ a by omega)
  exact ⟨k, rfl, by omega, hnone⟩

/-- Settles O59: of the ways a command ends, none is a refusal and one is a fault, which a read of BUF up to LEN
raises. -/
theorem commandsFaultOnlyOnUnwrittenBuf : Obligations.CommandsFaultOnlyOnUnwrittenBuf := by
  unfold Obligations.CommandsFaultOnlyOnUnwrittenBuf
  intro i s
  have hend := exec_outcome i s
  generalize exec i s = r at hend
  cases hend with
  | completed | raised => exact ⟨nofun, nofun⟩
  | faulted hl herr =>
    refine ⟨nofun, ?_⟩
    rintro _ ⟨⟩
    obtain ⟨k, rfl, hk, hnone⟩ := readBuf_error herr
    exact ⟨k, rfl, hk, hl, hnone⟩

/-! ### What every command leaves of BUF (70_reset_and_hazards.md R464, 20_memory.md R91) -/

section Stores

variable {i : Instr} {s t : State}

theorem bufSameOutside_of_mem_eq (h : t.mem = s.mem) (j k : Nat) : bufSameOutside s t j k :=
  fun _ _ => by rw [h]

/-- A string that ends by `k` at the latest is stored in BUF[j..k). -/
theorem bufSameOutside_of_store {v : List Byte} {j k : Nat} (ht : t.mem = (s.writeBuf j v).mem)
    (hv : j + v.length ≤ k) : bufSameOutside s t j k := by
  intro a ha
  rw [ht]
  exact Memory.read_writeRange_outside _ _ _ a (by omega)

/-- A command without the right to store has no elementary write to BUF. -/
theorem Effect.mem_eq (h : Effect i s t) (hi : writesBuf i = false) : t.mem = s.mem := by
  induction h with
  | refl => rfl
  | writeBuf _ hw => simp [hi] at hw
  | sessionStart _ _ _ ih => rw [sessionStart_mem, ih]
  | _ => assumption

/-- An elementary write to BUF ends below BUF_CAP (20_memory.md R91). -/
theorem Effect.bufSameOutside_bufCap (h : Effect i s t) : bufSameOutside s t 0 s.params.bufCap := by
  induction h with
  | refl => exact fun _ _ => rfl
  | @writeBuf u j v hu _ hv ih =>
    intro a ha
    rw [hu.registersKept.params] at hv
    rw [← ih a ha]
    exact Memory.read_writeRange_outside _ _ _ a (by omega)
  | sessionStart _ _ _ ih => exact fun a ha => by rw [sessionStart_mem, ih a ha]
  | _ => assumption

/-! ### The stored range of each storing command -/

theorem doCrypto_bufSameOutside {F : BlockFns → Primitive → List Byte → List Byte → List Byte → List Byte × List Byte}
    (hF : KeepsWidths F) (h : doCrypto F s = .next t) : bufSameOutside s t s.o s.n := by
  rcases doCrypto_next h with ⟨_, _, rfl⟩ | ⟨p, data, _, _, hr, _, hd, rfl⟩
  · exact bufSameOutside_of_mem_eq rfl _ _
  · obtain ⟨hout, _⟩ := hF s.params.blockFns p s.pkey _ data (ivB_length s p)
    rw [State.readBuf_length hd] at hout
    exact bufSameOutside_of_store rfl (by omega)

theorem execRotate_bufSameOutside {k : Byte} (h : execRotate k s = .next t) : bufSameOutside s t s.o s.n := by
  rcases execRotate_next h with ⟨_, rfl⟩ | ⟨_, rfl⟩ | ⟨data, hr, hd, rfl⟩
  · exact bufSameOutside_of_mem_eq rfl _ _
  · exact bufSameOutside_of_mem_eq rfl _ _
  · have hlen := State.readBuf_length hd
    exact bufSameOutside_of_store rfl (by rw [rotateBytes_length]; omega)

theorem legacyTxMac_bufSameOutside {p : Primitive} (h : legacyTxMac p s = .next t) :
    bufSameOutside s t s.n (s.n + 4) := by
  rcases legacyTxMac_next h with ⟨_, rfl⟩ | ⟨x, _, _, rfl⟩
  · exact bufSameOutside_of_mem_eq rfl _ _
  · exact bufSameOutside_of_store rfl (Nat.add_le_add_left (List.length_take_le _ _) _)

theorem defaultTxMac_bufSameOutside {p : Primitive} (h : defaultTxMac p s = .next t) :
    bufSameOutside s t s.n (s.n + 8) := by
  rcases defaultTxMac_next h with ⟨_, rfl⟩ | ⟨x, _, _, rfl⟩
  · exact bufSameOutside_of_mem_eq rfl _ _
  · exact bufSameOutside_of_store rfl (Nat.add_le_add_left (cmac_length s x (ivB_length s p)).1 _)

/-- The zero IV of the legacy transforms is one block. -/
theorem zeros_length_of_legacy {p : Primitive} (hp : factory s.ctype = .legacy p) :
    (zeros 8).length = blockSize p := by
  rw [zeros_length, (primitiveOf_of_legacy hp).2]

theorem legacyTxCipher_bufSameOutside {p : Primitive} (hp : factory s.ctype = .legacy p)
    (h : legacyTxCipher p s = .next t) : bufSameOutside s t s.o (s.o + padlen (s.n - s.o + 2) 8) := by
  rcases legacyTxCipher_next h with ⟨_, rfl⟩ | ⟨x, _, hx, rfl⟩
  · exact bufSameOutside_of_mem_eq rfl _ _
  · obtain ⟨hout, _⟩ := cbcEnc_keepsWidths s.params.blockFns p s.pkey _ (legacyTail s.params x)
      (zeros_length_of_legacy hp)
    rw [legacyTail_length, State.readBuf_length hx] at hout
    exact bufSameOutside_of_store rfl (by omega)

theorem defaultTxCipher_bufSameOutside {p : Primitive} (hr : s.rangeOk) (h : defaultTxCipher p s = .next t) :
    bufSameOutside s t s.o (s.n + 4 + defaultPad (blockSize p) s.o (s.n + 4)) := by
  obtain ⟨_, _, ⟨_, rfl⟩ | ⟨x, r, _, hx, rfl, rfl⟩⟩ := defaultTxCipher_next h
  · exact bufSameOutside_of_mem_eq rfl _ _
  · obtain ⟨hout, _⟩ := cbcEnc_keepsWidths s.params.blockFns p s.pkey _
      ((defaultPlain s.params (blockSize p) s.o x).drop s.o) (ivB_length s p)
    rw [List.length_drop, defaultPlain_length, State.readBuf_length hx, Nat.sub_zero] at hout
    exact bufSameOutside_of_store rfl (by omega)

/-- The decrypted frame is no longer than the frame. -/
theorem decrypted_bufSameOutside {p : Primitive} {iv c : List Byte} {r : List Byte × List Byte}
    (hiv : iv.length = blockSize p) (hc : s.readBuf 0 s.n = .ok c)
    (hr : r = cbcDec s.params.blockFns p s.pkey.val iv c) (ht : t.mem = (s.writeBuf 0 r.1).mem) :
    bufSameOutside s t 0 s.n := by
  obtain ⟨hout, _⟩ := cbcDec_keepsWidths s.params.blockFns p s.pkey iv c hiv
  rw [State.readBuf_length hc, ← hr] at hout
  exact bufSameOutside_of_store ht (by omega)

theorem legacyRxCipher_bufSameOutside {p : Primitive} (hp : factory s.ctype = .legacy p)
    (h : legacyRxCipher p s = .next t) : bufSameOutside s t 0 s.n := by
  have hiv := zeros_length_of_legacy hp
  rcases legacyRxCipher_next h with ⟨_, rfl⟩ | ⟨c, r, _, _, _, hc, hr, rfl, ⟨_, rfl⟩ | ⟨_, _, rfl⟩⟩
  · exact bufSameOutside_of_mem_eq rfl _ _
  all_goals exact decrypted_bufSameOutside hiv hc hr rfl

theorem defaultRxCipher_bufSameOutside {p : Primitive} {status : Option Byte}
    (h : defaultRxCipher p status s = .next t) : bufSameOutside s t 0 s.n := by
  have hiv := ivB_length s p
  rcases defaultRxCipher_next h with ⟨_, rfl⟩ | ⟨c, r, _, _, _, hc, hr, rfl, ⟨_, rfl⟩ | ⟨_, _, rfl⟩⟩
  · exact bufSameOutside_of_mem_eq rfl _ _
  all_goals exact decrypted_bufSameOutside hiv hc hr rfl

/-! ### The commands, from their transforms -/

/-- DO_CRYPTO and ROTATE. -/
theorem exec_inPlace_bufSameOutside (h : exec i s = .next t)
    (hi : i = .doCryptoEnc ∨ i = .doCryptoDec ∨ i = .doCryptoMac ∨ ∃ k, i = .rotate k) :
    bufSameOutside s t s.o s.n := by
  obtain rfl | rfl | rfl | ⟨k, rfl⟩ := hi
  · exact doCrypto_bufSameOutside cbcEnc_keepsWidths h
  · exact doCrypto_bufSameOutside cbcDec_keepsWidths h
  · exact doCrypto_bufSameOutside (F := cbcMac) cbcEnc_keepsWidths h
  · exact execRotate_bufSameOutside h

section PrepareTx

variable {legacy default : Primitive → State → Result} {p : Primitive} {j k : Nat}

/-- PREPARE_TX stores what the transform of a legacy family stores, or nothing. -/
theorem prepareTx_bufSameOutside_of_legacy (hp : factory s.ctype = .legacy p) (h : prepareTx legacy default s = .next t)
    (hstore : legacy p s = .next t → bufSameOutside s t j k) : bufSameOutside s t j k := by
  rcases prepareTx_next h with ⟨_, _, rfl⟩ | ⟨_, _, q, ⟨hq, h⟩ | ⟨hq, h⟩⟩
  · exact bufSameOutside_of_mem_eq rfl _ _
  · obtain rfl := Wrapper.legacy.inj (hp.symm.trans hq)
    exact hstore h
  · cases hp.symm.trans hq

/-- PREPARE_TX stores what the transform of a default family stores, or nothing. -/
theorem prepareTx_bufSameOutside_of_default (hp : factory s.ctype = .default p)
    (h : prepareTx legacy default s = .next t)
    (hstore : s.rangeOk → default p s = .next t → bufSameOutside s t j k) : bufSameOutside s t j k := by
  rcases prepareTx_next h with ⟨_, _, rfl⟩ | ⟨_, hr, q, ⟨hq, h⟩ | ⟨hq, h⟩⟩
  · exact bufSameOutside_of_mem_eq rfl _ _
  · cases hp.symm.trans hq
  · obtain rfl := Wrapper.default.inj (hp.symm.trans hq)
    exact hstore hr h

end PrepareTx

theorem confirmRx_cipher_bufSameOutside {status : Option Byte}
    (h : confirmRx legacyRxCipher (fun p => defaultRxCipher p status) s = .next t) : bufSameOutside s t 0 s.n := by
  rcases confirmRx_next h with ⟨_, _, _, rfl⟩ | ⟨_, _, _, ⟨hp, h⟩ | ⟨_, h⟩⟩
  · exact bufSameOutside_of_mem_eq rfl _ _
  · exact legacyRxCipher_bufSameOutside hp h
  · exact defaultRxCipher_bufSameOutside h

theorem exec_confirmRxCipher_bufSameOutside (h : exec i s = .next t) (hi : IsConfirmRxCipher i) :
    bufSameOutside s t 0 s.n := by
  obtain rfl | ⟨q, rfl⟩ := hi
  · exact confirmRx_cipher_bufSameOutside (status := none) h
  · exact confirmRx_cipher_bufSameOutside (status := some q) h

end Stores

/-- Settles O58: the elementary writes of a command give the two bounds common to all commands, and the transform of
each storing command its range. -/
theorem bufBytesOutsideTheStoreAreKept : Obligations.BufBytesOutsideTheStoreAreKept := by
  unfold Obligations.BufBytesOutsideTheStoreAreKept
  intro i s t h
  refine ⟨(exec_effect h).mem_eq, exec_inPlace_bufSameOutside h, ?legacyMac, ?defaultMac, ?legacyCipher, ?defaultCipher,
    exec_confirmRxCipher_bufSameOutside h, (exec_effect h).bufSameOutside_bufCap⟩
  case legacyMac =>
    rintro p rfl hp
    exact prepareTx_bufSameOutside_of_legacy hp h legacyTxMac_bufSameOutside
  case defaultMac =>
    rintro p rfl hp
    exact prepareTx_bufSameOutside_of_default hp h fun _ => defaultTxMac_bufSameOutside
  case legacyCipher =>
    rintro p rfl hp
    exact prepareTx_bufSameOutside_of_legacy hp h (legacyTxCipher_bufSameOutside hp)
  case defaultCipher =>
    rintro p rfl hp
    exact prepareTx_bufSameOutside_of_default hp h defaultTxCipher_bufSameOutside

end Sys2Proof.Machine
end
